-- ==== Sys2Proof/Word.lean ====
section
/-!
DEFINITION. The bit-vector types of the hardware: the widths of spec/00_scope.md R6 and R64.
-/

namespace Sys2Proof

/-- An 8-bit value: a memory byte, a general register, a timer, an `NN` immediate (R6, R64). -/
abbrev Byte := BitVec 8

/-- A 16-bit value: `I`, `pc`, a stack entry, an instruction word, `fault_info` (R6, R60). -/
abbrev Word := BitVec 16

/-- A 4-bit slice of an instruction word: `n0` to `n3`, and the operand fields X, Y, N (R64). -/
abbrev Nibble := BitVec 4

/-- A register index: a 4-bit field, so it is always in 0 to 15 (R11). -/
abbrev RegIdx := BitVec 4

/-- A 12-bit address field `NNN` (R64). -/
abbrev Addr12 := BitVec 12

/-- The flag register VF is register 15 (R12). -/
abbrev VF : RegIdx := 15#4

end Sys2Proof
end

