-- ==== Sys2Proof/Config.lean ====
section
/-!
DEFINITION. The parameters of the hardware (spec/00_scope.md R6, spec/92_eei_decisions.md "Open parameters")
and its two free inputs.
-/

namespace Sys2Proof

/-- `MEM_SIZE`: bytes of memory, addresses 0x000 to 0xFFF (R6, R40). -/
def Config.memSize : Nat := 4096

/-- `LOAD_BASE`: first byte of the loaded program and initial `pc` (R6). -/
def Config.loadBase : Nat := 0x200

/-- `MAX_ROM`: the largest program Load takes, `MEM_SIZE - LOAD_BASE` (R6, R243). -/
def Config.maxRom : Nat := 3584

/-- `STACK_DEPTH`: entries of the stack (R6, R16). -/
def Config.stackDepth : Nat := 16

/-- `MEM_INIT`: every byte outside the font after Reset (R6, D23). -/
def Config.memInit : Byte := 0x00#8

/-- The values of the parameter `SUB_MODE` (R6, D9). -/
inductive SubMode where
  /-- SUB_REG leaves the absolute difference: what this hardware does. -/
  | absdiff
  /-- SUB_REG wraps modulo 256: the alternative this hardware does not take. -/
  | wrap
  deriving DecidableEq, Repr

/-- `SUB_MODE`: this hardware takes `absdiff` (R6, D9). -/
def Config.subMode : SubMode := .absdiff

/-- `UNMATCHED_ADVANCE`: the fallback leaves `pc` unchanged (R6, R98, D6). -/
def Config.unmatchedAdvance : Bool := false

/-- `FONT`, glyphs 0 to 7 (R24; the bytes are from general knowledge, D22). -/
def Config.fontLow : List Byte :=
  [0xF0#8, 0x90#8, 0x90#8, 0x90#8, 0xF0#8,
   0x20#8, 0x60#8, 0x20#8, 0x20#8, 0x70#8,
   0xF0#8, 0x10#8, 0xF0#8, 0x80#8, 0xF0#8,
   0xF0#8, 0x10#8, 0xF0#8, 0x10#8, 0xF0#8,
   0x90#8, 0x90#8, 0xF0#8, 0x10#8, 0x10#8,
   0xF0#8, 0x80#8, 0xF0#8, 0x10#8, 0xF0#8,
   0xF0#8, 0x80#8, 0xF0#8, 0x90#8, 0xF0#8,
   0xF0#8, 0x10#8, 0x20#8, 0x40#8, 0x40#8]

/-- `FONT`, glyphs 8 to F (R24; the bytes are from general knowledge, D22). -/
def Config.fontHigh : List Byte :=
  [0xF0#8, 0x90#8, 0xF0#8, 0x90#8, 0xF0#8,
   0xF0#8, 0x90#8, 0xF0#8, 0x10#8, 0xF0#8,
   0xF0#8, 0x90#8, 0xF0#8, 0x90#8, 0x90#8,
   0xE0#8, 0x90#8, 0xE0#8, 0x90#8, 0xE0#8,
   0xF0#8, 0x80#8, 0x80#8, 0x80#8, 0xF0#8,
   0xE0#8, 0x90#8, 0x90#8, 0x90#8, 0xE0#8,
   0xF0#8, 0x80#8, 0xF0#8, 0x80#8, 0xF0#8,
   0xF0#8, 0x80#8, 0xF0#8, 0x80#8, 0x80#8]

/-- `FONT`: 16 glyphs of 5 bytes, at 0x000 to 0x04F after Reset (R24). -/
def Config.font : List Byte := Config.fontLow ++ Config.fontHigh

/-- The `keys` argument of the n-th Cycle: a free input under no law (R244). It has no body, so no proof can see
its value. -/
opaque Config.hostKeys : Nat → BitVec 16

/-- The `rnd` argument of the n-th Cycle: a free input under no law (R141, D18). It has no body, so no proof can see
its value. -/
opaque Config.hostRnd : Nat → Byte

end Sys2Proof
end

