-- ==== Sys2Proof/Syntax.lean ====
section
/-!
DEFINITION. The instructions: one constructor per row of spec/opcode_table.json (spec/30_encoding.md R67), the six
formats (R66), the decoder's output (R61) and the shape of a dispatch row (R62, R67).
-/

namespace Sys2Proof

/-- The 34 instructions in the order of the dispatch table (R67). The operand fields have the widths of R64, so
every term is an instruction some word encodes. SHR and SHL keep the `Y` field, which the hardware decodes and
ignores (D11), so that no bit of a word is dropped. -/
inductive Instr where
  /-- `00E0` CLEAR (R180). -/
  | clearFb
  /-- `00EE` RETURN (R110). -/
  | ret
  /-- `1NNN` JUMP (R111). -/
  | jump (nnn : Addr12)
  /-- `2NNN` CALL (R112). -/
  | call (nnn : Addr12)
  /-- `3XNN` SKIP_EQ_IMM (R114). -/
  | skipEqImm (x : RegIdx) (nn : Byte)
  /-- `4XNN` SKIP_NEQ_IMM (R115). -/
  | skipNeqImm (x : RegIdx) (nn : Byte)
  /-- `5XY0` SKIP_EQ_REG (R116). -/
  | skipEqReg (x y : RegIdx)
  /-- `6XNN` SET (R130). -/
  | setImm (x : RegIdx) (nn : Byte)
  /-- `7XNN` ADD_IMM (R131). -/
  | addImm (x : RegIdx) (nn : Byte)
  /-- `8XY0` SET_REG (R132). -/
  | setReg (x y : RegIdx)
  /-- `8XY1` OR (R133). -/
  | orReg (x y : RegIdx)
  /-- `8XY2` AND (R134). -/
  | andReg (x y : RegIdx)
  /-- `8XY3` XOR (R135). -/
  | xorReg (x y : RegIdx)
  /-- `8XY4` ADD_REG (R136). -/
  | addReg (x y : RegIdx)
  /-- `8XY5` SUB_REG (R137). -/
  | subReg (x y : RegIdx)
  /-- `8XY6` SHR (R138). -/
  | shr (x y : RegIdx)
  /-- `8XY7` SUBN (R139). -/
  | subn (x y : RegIdx)
  /-- `8XYE` SHL (R140). -/
  | shl (x y : RegIdx)
  /-- `9XY0` SKIP_NEQ_REG (R117). -/
  | skipNeqReg (x y : RegIdx)
  /-- `ANNN` SET_INDEX (R160). -/
  | setIndex (nnn : Addr12)
  /-- `BNNN` JUMP_PLUS (R113). -/
  | jumpPlus (nnn : Addr12)
  /-- `CXNN` RANDOM (R141). -/
  | random (x : RegIdx) (nn : Byte)
  /-- `DXYN` DRAW (R181). -/
  | draw (x y : RegIdx) (n : Nibble)
  /-- `EX9E` SKIP_KEY (R190). -/
  | skipKey (x : RegIdx)
  /-- `EXA1` SKIP_NOTKEY (R191). -/
  | skipNotkey (x : RegIdx)
  /-- `FX07` GET_DELAY (R193). -/
  | getDelay (x : RegIdx)
  /-- `FX0A` GET_KEY (R192). -/
  | getKey (x : RegIdx)
  /-- `FX15` SET_DELAY (R194). -/
  | setDelay (x : RegIdx)
  /-- `FX18` SET_SOUND (R195). -/
  | setSound (x : RegIdx)
  /-- `FX1E` ADD_INDEX (R161). -/
  | addIndex (x : RegIdx)
  /-- `FX29` FONT_ADDR (R162). -/
  | fontAddr (x : RegIdx)
  /-- `FX33` BCD (R163). -/
  | bcd (x : RegIdx)
  /-- `FX55` REG_DUMP (R164). -/
  | regDump (x : RegIdx)
  /-- `FX65` REG_LOAD (R165). -/
  | regLoad (x : RegIdx)
  deriving DecidableEq, Repr

/-- The six formats of R66. -/
inductive Format where
  /-- L: the whole word is matched. -/
  | literal
  /-- A: one matched digit and `NNN`. -/
  | address
  /-- I: one matched digit, `X` and `NN`. -/
  | immediate
  /-- R: two matched digits, `X` and `Y`. -/
  | registers
  /-- D: one matched digit, `X`, `Y` and `N`. -/
  | draw
  /-- X: three matched digits and `X`. -/
  | oneReg
  deriving DecidableEq, Repr

/-- The mask of a format: a matched digit is F, an operand digit is 0 (R66). -/
def Format.mask : Format → Word
  | .literal => 0xFFFF#16
  | .address => 0xF000#16
  | .immediate => 0xF000#16
  | .registers => 0xF00F#16
  | .draw => 0xF000#16
  | .oneReg => 0xF0FF#16

/-- The format column of R67. -/
def Instr.format : Instr → Format
  | .clearFb | .ret => .literal
  | .jump _ | .call _ | .setIndex _ | .jumpPlus _ => .address
  | .skipEqImm _ _ | .skipNeqImm _ _ | .setImm _ _ | .addImm _ _ | .random _ _ => .immediate
  | .skipEqReg _ _ | .setReg _ _ | .orReg _ _ | .andReg _ _ | .xorReg _ _ | .addReg _ _ | .subReg _ _
  | .shr _ _ | .subn _ _ | .shl _ _ | .skipNeqReg _ _ => .registers
  | .draw _ _ _ => .draw
  | .skipKey _ | .skipNotkey _ | .getDelay _ | .getKey _ | .setDelay _ | .setSound _ | .addIndex _ | .fontAddr _
  | .bcd _ | .regDump _ | .regLoad _ => .oneReg

/-- The match column of R67. -/
def Instr.pattern : Instr → Word
  | .clearFb => 0x00E0#16
  | .ret => 0x00EE#16
  | .jump _ => 0x1000#16
  | .call _ => 0x2000#16
  | .skipEqImm _ _ => 0x3000#16
  | .skipNeqImm _ _ => 0x4000#16
  | .skipEqReg _ _ => 0x5000#16
  | .setImm _ _ => 0x6000#16
  | .addImm _ _ => 0x7000#16
  | .setReg _ _ => 0x8000#16
  | .orReg _ _ => 0x8001#16
  | .andReg _ _ => 0x8002#16
  | .xorReg _ _ => 0x8003#16
  | .addReg _ _ => 0x8004#16
  | .subReg _ _ => 0x8005#16
  | .shr _ _ => 0x8006#16
  | .subn _ _ => 0x8007#16
  | .shl _ _ => 0x800E#16
  | .skipNeqReg _ _ => 0x9000#16
  | .setIndex _ => 0xA000#16
  | .jumpPlus _ => 0xB000#16
  | .random _ _ => 0xC000#16
  | .draw _ _ _ => 0xD000#16
  | .skipKey _ => 0xE09E#16
  | .skipNotkey _ => 0xE0A1#16
  | .getDelay _ => 0xF007#16
  | .getKey _ => 0xF00A#16
  | .setDelay _ => 0xF015#16
  | .setSound _ => 0xF018#16
  | .addIndex _ => 0xF01E#16
  | .fontAddr _ => 0xF029#16
  | .bcd _ => 0xF033#16
  | .regDump _ => 0xF055#16
  | .regLoad _ => 0xF065#16

/-- The decoder's output: the raw word and its four nibbles, most significant first (R61). -/
structure Descriptor where
  /-- The 16-bit instruction word. -/
  raw : Word
  /-- Bits 15 to 12. -/
  n0 : Nibble
  /-- Bits 11 to 8: the field X. -/
  n1 : Nibble
  /-- Bits 7 to 4: the field Y. -/
  n2 : Nibble
  /-- Bits 3 to 0: the field N. -/
  n3 : Nibble
  deriving DecidableEq, Repr

/-- One row of the dispatch table: what it matches, and the instruction it makes of a descriptor (R67). -/
structure Row where
  /-- The bits that are compared. -/
  mask : Word
  /-- What they must be. -/
  pattern : Word
  /-- The handler with its operand fields (R69: the fields pass through unchanged). -/
  build : Descriptor → Instr

/-- The names under which dispatch reports UNMATCHED: the six classes of unmatched words (R71). -/
inductive Unmatched where
  /-- `0NNN` other than `00E0` and `00EE`. -/
  | word0NNN
  /-- `5XYn` with n = 1 to F. -/
  | word5XYn
  /-- `8XYn` with n = 8 to D, or F. -/
  | word8XYn
  /-- `9XYn` with n = 1 to F. -/
  | word9XYn
  /-- `EXnn` other than `EX9E` and `EXA1`. -/
  | wordEXnn
  /-- `FXnn` other than the nine rows of the table. -/
  | wordFXnn
  deriving DecidableEq, Repr

end Sys2Proof
end

