-- ==== Sys2Proof/WellFormed.lean ====
section
/-!
DEFINITION. Well-formedness: of an instruction (nothing to check beyond its operand types), of a row of the dispatch
table (spec/30_encoding.md R62), of a pair of rows (R68) and of a program handed to Load (spec/70_reset_and_hazards.md
R243).
-/

namespace Sys2Proof

/-- Every term of `Instr` is well-formed: the operands are nibble-extracted fields whose types carry the widths of
R64, so none can be out of range (R11). The arms name every format so that a new constructor cannot slip past. -/
def Instr.wf (i : Instr) : Bool :=
  match i.format with
  | .literal | .address | .immediate | .registers | .draw | .oneReg => true

/-- A row can match some word: `pattern & ~mask = 0` (R62). -/
def Row.wf (r : Row) : Bool := r.pattern &&& ~~~ r.mask == 0#16

/-- Two rows are disjoint: they differ in a bit both compare (R68). -/
def Row.disjoint (r q : Row) : Bool := (r.pattern ^^^ q.pattern) &&& (r.mask &&& q.mask) != 0#16

/-- A program fits in memory from the load offset: at most `MAX_ROM` bytes (R243). -/
def romFits (bytes : List Byte) : Bool := bytes.length ≤ Config.maxRom

end Sys2Proof
end

