-- ==== Sys2Proof/Decode.lean ====
section
/-!
DEFINITION. The decoder block (spec/30_encoding.md R61 to R65), the dispatch block (R67 to R71), and the encoder written
from the same table.
-/

namespace Sys2Proof

/-- The word of two bytes in program order: the first byte is bits 15 to 8 (R43, R61). -/
def wordOfBytes (hi lo : Byte) : Word := hi ++ lo

/-- Bits 15 to 8 of a word: the byte at the lower address (R43). -/
def hiByte (w : Word) : Byte := w.extractLsb' 8 8

/-- Bits 7 to 0 of a word: the byte at the higher address (R43). -/
def loByte (w : Word) : Byte := w.extractLsb' 0 8

/-- The decoder: a pure function of two bytes, total, without error cases (R61, R63). -/
def decodeBytes (hi lo : Byte) : Descriptor :=
  { raw := wordOfBytes hi lo
    n0 := hi.extractLsb' 4 4
    n1 := hi.extractLsb' 0 4
    n2 := lo.extractLsb' 4 4
    n3 := lo.extractLsb' 0 4 }

/-- The predicate `matches(mask, pattern)` (R62). -/
def Descriptor.fits (d : Descriptor) (mask pattern : Word) : Bool := d.raw &&& mask == pattern

/-- The field NN: bits 7 to 0 (R64). -/
def Descriptor.nn (d : Descriptor) : Byte := d.raw.extractLsb' 0 8

/-- The field NNN: bits 11 to 0 (R64). -/
def Descriptor.nnn (d : Descriptor) : Addr12 := d.raw.extractLsb' 0 12

/-- Rows 1 to 9 of R67. -/
def dispatchRows1to9 : List Row :=
  [⟨0xFFFF#16, 0x00E0#16, fun _ => .clearFb⟩,
   ⟨0xFFFF#16, 0x00EE#16, fun _ => .ret⟩,
   ⟨0xF000#16, 0x1000#16, fun d => .jump d.nnn⟩,
   ⟨0xF000#16, 0x2000#16, fun d => .call d.nnn⟩,
   ⟨0xF000#16, 0x3000#16, fun d => .skipEqImm d.n1 d.nn⟩,
   ⟨0xF000#16, 0x4000#16, fun d => .skipNeqImm d.n1 d.nn⟩,
   ⟨0xF00F#16, 0x5000#16, fun d => .skipEqReg d.n1 d.n2⟩,
   ⟨0xF000#16, 0x6000#16, fun d => .setImm d.n1 d.nn⟩,
   ⟨0xF000#16, 0x7000#16, fun d => .addImm d.n1 d.nn⟩]

/-- Rows 10 to 18 of R67: the `8XYn` family, low nibble in hexadecimal (D8). -/
def dispatchRows10to18 : List Row :=
  [⟨0xF00F#16, 0x8000#16, fun d => .setReg d.n1 d.n2⟩,
   ⟨0xF00F#16, 0x8001#16, fun d => .orReg d.n1 d.n2⟩,
   ⟨0xF00F#16, 0x8002#16, fun d => .andReg d.n1 d.n2⟩,
   ⟨0xF00F#16, 0x8003#16, fun d => .xorReg d.n1 d.n2⟩,
   ⟨0xF00F#16, 0x8004#16, fun d => .addReg d.n1 d.n2⟩,
   ⟨0xF00F#16, 0x8005#16, fun d => .subReg d.n1 d.n2⟩,
   ⟨0xF00F#16, 0x8006#16, fun d => .shr d.n1 d.n2⟩,
   ⟨0xF00F#16, 0x8007#16, fun d => .subn d.n1 d.n2⟩,
   ⟨0xF00F#16, 0x800E#16, fun d => .shl d.n1 d.n2⟩]

/-- Rows 19 to 25 of R67. -/
def dispatchRows19to25 : List Row :=
  [⟨0xF00F#16, 0x9000#16, fun d => .skipNeqReg d.n1 d.n2⟩,
   ⟨0xF000#16, 0xA000#16, fun d => .setIndex d.nnn⟩,
   ⟨0xF000#16, 0xB000#16, fun d => .jumpPlus d.nnn⟩,
   ⟨0xF000#16, 0xC000#16, fun d => .random d.n1 d.nn⟩,
   ⟨0xF000#16, 0xD000#16, fun d => .draw d.n1 d.n2 d.n3⟩,
   ⟨0xF0FF#16, 0xE09E#16, fun d => .skipKey d.n1⟩,
   ⟨0xF0FF#16, 0xE0A1#16, fun d => .skipNotkey d.n1⟩]

/-- Rows 26 to 34 of R67. -/
def dispatchRows26to34 : List Row :=
  [⟨0xF0FF#16, 0xF007#16, fun d => .getDelay d.n1⟩,
   ⟨0xF0FF#16, 0xF00A#16, fun d => .getKey d.n1⟩,
   ⟨0xF0FF#16, 0xF015#16, fun d => .setDelay d.n1⟩,
   ⟨0xF0FF#16, 0xF018#16, fun d => .setSound d.n1⟩,
   ⟨0xF0FF#16, 0xF01E#16, fun d => .addIndex d.n1⟩,
   ⟨0xF0FF#16, 0xF029#16, fun d => .fontAddr d.n1⟩,
   ⟨0xF0FF#16, 0xF033#16, fun d => .bcd d.n1⟩,
   ⟨0xF0FF#16, 0xF055#16, fun d => .regDump d.n1⟩,
   ⟨0xF0FF#16, 0xF065#16, fun d => .regLoad d.n1⟩]

/-- The dispatch table: 34 rows in priority order (R67). -/
def dispatchTable : List Row :=
  dispatchRows1to9 ++ dispatchRows10to18 ++ dispatchRows19to25 ++ dispatchRows26to34

/-- The class of an unmatched word, by its top nibble (R71). -/
def unmatchedClass (d : Descriptor) : Unmatched :=
  match d.n0.toNat with
  | 0 => .word0NNN
  | 5 => .word5XYn
  | 8 => .word8XYn
  | 9 => .word9XYn
  | 14 => .wordEXnn
  | _ => .wordFXnn

/-- Dispatch: the first row that matches, else UNMATCHED (R67, R69, R70). -/
def dispatch (d : Descriptor) : Except Unmatched Instr :=
  match dispatchTable.find? (fun r => d.fits r.mask r.pattern) with
  | some r => .ok (r.build d)
  | none => .error (unmatchedClass d)

/-- Decode and dispatch of two bytes in program order: total on any bytes, rejecting by name (R96). -/
def decode (hi lo : Byte) : Except Unmatched Instr := dispatch (decodeBytes hi lo)

/-- Decode and dispatch of an instruction word (R43). -/
def decodeWord (w : Word) : Except Unmatched Instr := decode (hiByte w) (loByte w)

/-- A word of four nibbles, most significant first (R61). -/
def wordOfNibbles (a b c d : Nibble) : Word := a ++ b ++ c ++ d

/-- Format I: a matched digit, `X`, `NN` (R66). -/
def encodeImm (a : Nibble) (x : RegIdx) (nn : Byte) : Word := a ++ x ++ nn

/-- Format A: a matched digit, `NNN` (R66). -/
def encodeAddr (a : Nibble) (nnn : Addr12) : Word := a ++ nnn

/-- Format X: a matched digit, `X`, two matched digits (R66). -/
def encodeOneReg (a : Nibble) (x : RegIdx) (low : Byte) : Word := a ++ x ++ low

/-- The word of an instruction, from the pattern column of R67. -/
def encode : Instr → Word
  | .clearFb => 0x00E0#16
  | .ret => 0x00EE#16
  | .jump nnn => encodeAddr 0x1#4 nnn
  | .call nnn => encodeAddr 0x2#4 nnn
  | .skipEqImm x nn => encodeImm 0x3#4 x nn
  | .skipNeqImm x nn => encodeImm 0x4#4 x nn
  | .skipEqReg x y => wordOfNibbles 0x5#4 x y 0x0#4
  | .setImm x nn => encodeImm 0x6#4 x nn
  | .addImm x nn => encodeImm 0x7#4 x nn
  | .setReg x y => wordOfNibbles 0x8#4 x y 0x0#4
  | .orReg x y => wordOfNibbles 0x8#4 x y 0x1#4
  | .andReg x y => wordOfNibbles 0x8#4 x y 0x2#4
  | .xorReg x y => wordOfNibbles 0x8#4 x y 0x3#4
  | .addReg x y => wordOfNibbles 0x8#4 x y 0x4#4
  | .subReg x y => wordOfNibbles 0x8#4 x y 0x5#4
  | .shr x y => wordOfNibbles 0x8#4 x y 0x6#4
  | .subn x y => wordOfNibbles 0x8#4 x y 0x7#4
  | .shl x y => wordOfNibbles 0x8#4 x y 0xE#4
  | .skipNeqReg x y => wordOfNibbles 0x9#4 x y 0x0#4
  | .setIndex nnn => encodeAddr 0xA#4 nnn
  | .jumpPlus nnn => encodeAddr 0xB#4 nnn
  | .random x nn => encodeImm 0xC#4 x nn
  | .draw x y n => wordOfNibbles 0xD#4 x y n
  | .skipKey x => encodeOneReg 0xE#4 x 0x9E#8
  | .skipNotkey x => encodeOneReg 0xE#4 x 0xA1#8
  | .getDelay x => encodeOneReg 0xF#4 x 0x07#8
  | .getKey x => encodeOneReg 0xF#4 x 0x0A#8
  | .setDelay x => encodeOneReg 0xF#4 x 0x15#8
  | .setSound x => encodeOneReg 0xF#4 x 0x18#8
  | .addIndex x => encodeOneReg 0xF#4 x 0x1E#8
  | .fontAddr x => encodeOneReg 0xF#4 x 0x29#8
  | .bcd x => encodeOneReg 0xF#4 x 0x33#8
  | .regDump x => encodeOneReg 0xF#4 x 0x55#8
  | .regLoad x => encodeOneReg 0xF#4 x 0x65#8

/-- The first instruction word of a table number: bits 15 to 0, the bits above `nbits` zero. Every instruction is
one 16-bit word (R60). -/
def tableWord (nbits w : Nat) : Word := BitVec.ofNat 16 (w % 2 ^ nbits)

/-- The host's view of the decoder: the instruction read from a word of the opcode table, its two bytes laid out high
byte first (R43), or none for an unmatched word. -/
def decodeTableWord (nbits w : Nat) : Option Instr :=
  match decode (hiByte (tableWord nbits w)) (loByte (tableWord nbits w)) with
  | .ok i => some i
  | .error _ => none

end Sys2Proof
end

