-- ==== Sys2Proof/Machine/State.lean ====
section
/-!
DEFINITION. The state of the machine as plain data (spec/10_state.md R10 to R26), its value after Reset (R26, R240),
and the reasons a step can end without a next state.
-/

namespace Sys2Proof.Machine

/-- Memory: the cells whose byte differs from what Reset leaves there, at strictly rising addresses. What an unlisted
address reads as is `Memory.initial`, the contents after Reset (R26, R40, R42). -/
abbrev Memory := List Host.Cell

/-- The framebuffer: 32 rows from the top, each of 64 pixels from the left; `true` is on (R18). -/
abbrev Framebuffer := Vector (Vector Bool 64) 32

/-- The fault causes (R21, R210). -/
inductive FaultCause where
  /-- Code 0: no fault has occurred. -/
  | none
  /-- Code 1: the fetch of any cycle with `pc + 1 > 0xFFF` (R211). -/
  | fetchBounds
  /-- Code 2: RETURN with `sp = -1` (R212). -/
  | stackUnderflow
  /-- Code 3: CALL with `sp = 15` (R213). -/
  | stackOverflow
  /-- Code 4: DRAW, BCD, REG_DUMP or REG_LOAD reaching above 0xFFF (R214). -/
  | memBounds
  /-- Code 5: SKIP_KEY or SKIP_NOTKEY with `V[X] > 15` (R215). -/
  | keyIndex
  deriving DecidableEq, Repr

/-- The two arguments of a Cycle (R90, R244). -/
structure CycleInput where
  /-- Bit `k` is 1 when hexadecimal key `k` is down. -/
  keys : BitVec 16
  /-- The draw of the pseudorandom source for this cycle. -/
  rnd : Byte
  deriving DecidableEq, Repr

/-- The state: the fifteen elements of R10, then three fields of the model's own that carry the inputs of a Cycle
(notes/assumptions/1.md). -/
structure State where
  /-- `mem`: 4096 bytes (R40). -/
  mem : Memory
  /-- `V`: sixteen general registers (R11). -/
  v : Vector Byte 16
  /-- `I`: the index register (R14). -/
  i : Word
  /-- `pc`: the program counter (R15). -/
  pc : Word
  /-- `stack`: sixteen return-address entries (R16). -/
  stack : Vector Word 16
  /-- `sp + 1`: the number of live stack entries, 0 to 16, the depth counter R16 names (D14). -/
  depth : Fin 17
  /-- `dt`: the delay timer (R17). -/
  dt : Byte
  /-- `st`: the sound timer (R17). -/
  st : Byte
  /-- `fb`: the framebuffer (R18). -/
  fb : Framebuffer
  /-- `key`: bit `k` is 1 when key `k` is down (R19). -/
  key : BitVec 16
  /-- `draw_pending` (R20). -/
  drawPending : Bool
  /-- `last_opcode`: the word most recently fetched (R22). -/
  lastOpcode : Word
  /-- `halted` (R21). -/
  halted : Bool
  /-- `fault_cause` (R21). -/
  faultCause : FaultCause
  /-- `fault_info` (R21). -/
  faultInfo : Word
  /-- The model's own: the `rnd` argument of the current Cycle, which RANDOM reads (R141). -/
  rnd : Byte
  /-- The model's own: arguments of coming Cycles that are already fixed, the next one first; when there are none,
  the free inputs of Config are taken. -/
  inputs : List CycleInput
  /-- The model's own: how many Cycles have taken their arguments; it numbers the free inputs. -/
  cycleNo : Nat
  deriving DecidableEq, Repr

/-- `sp`: the integer -1 to 15 (R16). -/
def State.sp (s : State) : Int := (s.depth.val : Int) - 1

/-- The state after Reset: the table of R26, with memory listing nothing, so that every byte reads as Reset leaves
it. The model's own three fields start empty and are named in notes/assumptions/1.md. -/
def State.reset : State where
  mem := []
  v := Vector.replicate 16 0#8
  i := 0#16
  pc := 0x200#16
  stack := Vector.replicate 16 0#16
  depth := 0
  dt := 0#8
  st := 0#8
  fb := Vector.replicate 32 (Vector.replicate 64 false)
  key := 0#16
  drawPending := false
  lastOpcode := 0#16
  halted := false
  faultCause := .none
  faultInfo := 0#16
  rnd := 0#8
  inputs := []
  cycleNo := 0

/-- Why a step has no next state. -/
inductive Fault where
  /-- Raised by `step` alone, on a machine that a fatal condition has stopped: such a state has no successor, and
  only the host's Reset goes on (R91, R222). Safe: the machine makes no progress there. -/
  | halted
  deriving DecidableEq, Repr

/-- Why the model gives an instruction no meaning. -/
inductive Refusal where
  /-- Raised by `exec` alone, for an instruction that has no meaning yet; no arm raises it in this model. Safe: the
  machine stops where the hardware goes on. -/
  | notModelled (mnemonic : String)
  deriving DecidableEq, Repr

/-- The result of an instruction or a step. -/
abbrev Result := Host.Outcome State Fault Refusal

end Sys2Proof.Machine
end

