-- ==== Sys2Proof/Machine/Ops.lean ====
section
/-!
DEFINITION. The named operations over memory, registers, stack, timers and framebuffer (spec/10_state.md,
spec/20_memory.md), fetch (spec/40_cycle.md R94), and raising a fault (spec/60_exceptions.md R220). There is no
operation that returns from a fault, because the hardware has none (R222).
-/

namespace Sys2Proof.Machine

/-! ### Memory (R40, R42, R49 to R51) -/

/-- What an address that no cell lists reads as: the contents after Reset, the font at 0x000 to 0x04F and `MEM_INIT`
elsewhere (R26, R42). -/
def Memory.initial (a : Nat) : Byte := Config.font.getD a Config.memInit

/-- `mem[a]` (R8, R50). -/
def Memory.read : Memory → Nat → Byte
  | [], a => Memory.initial a
  | (k, b) :: rest, a => if a = k then b else Memory.read rest a

/-- Insert a cell before the first cell of a higher address. -/
def Memory.insertCell (a : Nat) (b : Byte) : Memory → Memory
  | [] => [(a, b)]
  | (k, c) :: rest => if a < k then (a, b) :: (k, c) :: rest else (k, c) :: Memory.insertCell a b rest

/-- Memory without a cell for `a`. -/
def Memory.erase (m : Memory) (a : Nat) : Memory := m.filter (fun c => c.1 != a)

/-- `mem[a] <- b` (R8), in canonical form: a byte that equals what Reset leaves there is not listed. An address above
0xFFF does not exist (R46) and nothing is written there; every caller has checked its range first (R48). -/
def Memory.write (m : Memory) (a : Nat) (b : Byte) : Memory :=
  if a < Config.memSize then
    if b = Memory.initial a then m.erase a else Memory.insertCell a b (m.erase a)
  else m

/-- The canonical form of memory: strictly rising addresses inside the memory, and no cell that lists what an
unlisted address reads as. -/
abbrev Memory.wf (m : Memory) : Prop :=
  m.Pairwise (fun c d => c.1 < d.1) ∧ ∀ c ∈ m, c.1 < Config.memSize ∧ c.2 ≠ Memory.initial c.1

/-- The byte of memory at an address. -/
def State.readByte (s : State) (a : Nat) : Byte := Memory.read s.mem a

/-- Store one byte (R8 `MemWrite`). -/
def State.writeByte (s : State) (a : Nat) (b : Byte) : State := { s with mem := Memory.write s.mem a b }

/-- Store bytes at ascending addresses (R44). -/
def State.writeBytes (s : State) (a : Nat) : List Byte → State
  | [] => s
  | b :: rest => State.writeBytes (s.writeByte a b) (a + 1) rest

/-! ### Registers (R11, R14, R15, R17) -/

/-- `V[x]` (R11). -/
def State.getV (s : State) (x : RegIdx) : Byte := s.v[x.toNat]'x.isLt

/-- `V[x] <- b` (R11). -/
def State.setV (s : State) (x : RegIdx) (b : Byte) : State := { s with v := s.v.set x.toNat b x.isLt }

/-- `I <- a` (R14). -/
def State.setI (s : State) (a : Word) : State := { s with i := a }

/-- `pc <- a` (R15). -/
def State.setPc (s : State) (a : Word) : State := { s with pc := a }

/-- `dt <- b` (R17). -/
def State.setDt (s : State) (b : Byte) : State := { s with dt := b }

/-- `st <- b` (R17). -/
def State.setSt (s : State) (b : Byte) : State := { s with st := b }

/-- `fb <- f` (R18). -/
def State.setFb (s : State) (f : Framebuffer) : State := { s with fb := f }

/-- `draw_pending <- b` (R20). -/
def State.setDrawPending (s : State) (b : Bool) : State := { s with drawPending := b }

/-- `last_opcode <- w` (R22, R95). -/
def State.setLastOpcode (s : State) (w : Word) : State := { s with lastOpcode := w }

/-! ### Program counter (R97) -/

/-- `pc <- (pc + 2) mod 65536`: pass one instruction (R97 (a)). -/
def State.advance (s : State) : State := s.setPc (s.pc + 2#16)

/-- `pc <- (pc + 4) mod 65536` when the condition holds, else `pc <- (pc + 2) mod 65536` (R97 (b), R118). -/
def State.skipIf (s : State) (c : Bool) : State := if c then s.setPc (s.pc + 4#16) else s.advance

/-! ### Stack (R16) -/

/-- Push an entry: `sp <- sp + 1`, then `stack[sp] <- w`; none when sixteen entries are live (R16, R112). -/
def State.push (s : State) (w : Word) : Option State :=
  if h : s.depth.val < 16 then
    some { s with stack := s.stack.set s.depth.val w h, depth := ⟨s.depth.val + 1, by omega⟩ }
  else none

/-- Pop an entry: read `stack[sp]`, then `sp <- sp - 1`; the entry is not cleared; none when the stack is empty
(R16, R110). -/
def State.pop (s : State) : Option (Word × State) :=
  if h : 0 < s.depth.val then
    some (s.stack[s.depth.val - 1]'(by have := s.depth.isLt; omega),
      { s with depth := ⟨s.depth.val - 1, by have := s.depth.isLt; omega⟩ })
  else none

/-! ### Framebuffer (R18) -/

/-- Every pixel off (R180). -/
def Framebuffer.clear : Framebuffer := Vector.replicate 32 (Vector.replicate 64 false)

/-- `fb[x][y]`: column `x` from the left, row `y` from the top (R18). -/
def Framebuffer.pixel (f : Framebuffer) (x : Fin 64) (y : Fin 32) : Bool := f[y][x]

/-- Complement the pixel in column `x` and row `y` (R181). -/
def Framebuffer.flip (f : Framebuffer) (x : Fin 64) (y : Fin 32) : Framebuffer :=
  f.set y.val (f[y].set x.val (!f[y][x]))

/-! ### The start of a cycle (R92 to R94) -/

/-- The arguments of a Cycle replace the key state and become the current random byte (R92, R141). -/
def State.latch (s : State) (keys : BitVec 16) (rnd : Byte) : State := { s with key := keys, rnd := rnd }

/-- One tick of a timer: down by 1 while it is greater than 0 (R17, R93). -/
def tickDown (t : Byte) : Byte := if t = 0#8 then 0#8 else t - 1#8

/-- Both timers tick (R93). -/
def State.tickTimers (s : State) : State := { s with dt := tickDown s.dt, st := tickDown s.st }

/-- `MemRead(pc, 2)`: the word at `pc`, the byte at the lower address high; none when `pc + 1 > 0xFFF` (R43, R94). -/
def State.fetch (s : State) : Option Word :=
  if s.pc.toNat + 1 < Config.memSize then
    some (wordOfBytes (s.readByte s.pc.toNat) (s.readByte (s.pc.toNat + 1)))
  else none

/-- The arguments of the next Cycle: the first fixed ones, else the free inputs (R244). -/
def State.nextInput (s : State) : CycleInput :=
  match s.inputs with
  | c :: _ => c
  | [] => { keys := Config.hostKeys s.cycleNo, rnd := Config.hostRnd s.cycleNo }

/-- The next Cycle's arguments have been taken. -/
def State.takeInput (s : State) : State := { s with inputs := s.inputs.tail, cycleNo := s.cycleNo + 1 }

/-! ### Faults (R210, R220) -/

/-- The code of a cause (R210). -/
def FaultCause.code : FaultCause → BitVec 3
  | .none => 0#3
  | .fetchBounds => 1#3
  | .stackUnderflow => 2#3
  | .stackOverflow => 3#3
  | .memBounds => 4#3
  | .keyIndex => 5#3

/-- Fault entry: `halted <- 1`, `fault_cause <- code`, `fault_info <- info`, and nothing else; `pc` keeps the address
of the faulting instruction (R220). -/
def State.fail (s : State) (c : FaultCause) (info : Word) : State :=
  { s with halted := true, faultCause := c, faultInfo := info }

/-- `raise`: the cycle ends in the state that fault entry leaves, a next state of the machine (R8, R220). -/
def raise (c : FaultCause) (info : Word) (s : State) : Result := .next (s.fail c info)

end Sys2Proof.Machine
end

