-- ==== Sys2Proof/Machine/Flags.lean ====
section
/-!
DEFINITION. The results and flags of the arithmetic instructions (spec/42_alu.md R131, R136 to R140), computed from
unsigned integers and narrowed at the end, and the order of their writes (spec/10_state.md R13).
-/

namespace Sys2Proof.Machine

/-- A flag as the value of VF: 1 or 0 (R12). -/
def flagByte (c : Bool) : Byte := if c then 1#8 else 0#8

/-- `(a + b) mod 256` (R131, R136). -/
def addMod (a b : Byte) : Byte := BitVec.ofNat 8 ((a.toNat + b.toNat) % 256)

/-- The carry of an addition: the sum exceeds 255 (R136). -/
def addCarry (a b : Byte) : Bool := 255 < a.toNat + b.toNat

/-- The result of SUB_REG: `|a - b|` under `absdiff`, `(a - b) mod 256` under `wrap` (R137, D9). -/
def subResult (a b : Byte) : Byte :=
  match Config.subMode with
  | .absdiff => BitVec.ofNat 8 (if b.toNat ≤ a.toNat then a.toNat - b.toNat else b.toNat - a.toNat)
  | .wrap => BitVec.ofNat 8 ((256 + a.toNat - b.toNat) % 256)

/-- The flag of a subtraction: the minuend is strictly greater than the subtrahend (R137, R139). -/
def subFlag (minuend subtrahend : Byte) : Bool := subtrahend.toNat < minuend.toNat

/-- The result of SUBN: `(b - a) mod 256` (R139). -/
def subnResult (a b : Byte) : Byte := BitVec.ofNat 8 ((256 + b.toNat - a.toNat) % 256)

/-- The result of SHR: `a div 2` (R138). -/
def shrResult (a : Byte) : Byte := BitVec.ofNat 8 (a.toNat / 2)

/-- The flag of SHR: bit 0 before the shift (R138). -/
def shrFlag (a : Byte) : Bool := a.getLsbD 0

/-- The result of SHL: `(a << 1) mod 256` (R140). -/
def shlResult (a : Byte) : Byte := BitVec.ofNat 8 ((a.toNat * 2) % 256)

/-- The flag of SHL: bit 7 before the shift (R140). -/
def shlFlag (a : Byte) : Bool := a.getLsbD 7

/-- The writes of a flag-writing arithmetic instruction: the result to `Vx`, then the flag to VF last (R13). -/
def State.setFlagged (s : State) (x : RegIdx) (result : Byte) (flag : Bool) : State :=
  (s.setV x result).setV VF (flagByte flag)

end Sys2Proof.Machine
end

