-- ==== Sys2Proof/Machine/Operands.lean ====
section
/-!
DEFINITION. The operand forms: immediates (spec/30_encoding.md R65), effective addresses `I + k` and their range
check (spec/20_memory.md R46 to R48), and the key named by a register (spec/45_keys_timers.md R190).
-/

namespace Sys2Proof.Machine

/-- `zext_16(NNN)` (R65). -/
def zextAddr (nnn : Addr12) : Word := nnn.setWidth 16

/-- `zext_16` of a byte (R65). -/
def zextByte (b : Byte) : Word := b.setWidth 16

/-- The effective address `I + k`, an unbounded integer (R47). -/
def State.ea (s : State) (k : Nat) : Nat := s.i.toNat + k

/-- Every address of an access of `count` bytes from `I` exists; an access of no byte always does (R46, R181). -/
def State.rangeOk (s : State) (count : Nat) : Bool := count == 0 || s.i.toNat + count ≤ Config.memSize

/-- The lowest out-of-range address of an access from `I`: `max(I, 0x1000)` (R214). -/
def State.boundsInfo (s : State) : Word := if s.i.toNat ≤ 0x1000 then 0x1000#16 else s.i

/-- A data access of `count` bytes from `I`: the whole range is checked before any effect, and `ok` is the state when
it exists (R48, R214). -/
def State.withRange (s : State) (count : Nat) (ok : State) : Result :=
  if s.rangeOk count then .next ok else raise .memBounds s.boundsInfo s

/-- The key named by the value of `Vx`: none when it is above 15 (R190, R215). -/
def State.keyNamed (s : State) (x : RegIdx) : Option Bool :=
  if (s.getV x).toNat ≤ 15 then some (s.key.getLsbD (s.getV x).toNat) else none

/-- The least key that is down, scanning low to high (R192). -/
def leastKey (key : BitVec 16) : Option Nat := (List.range 16).find? (fun k => key.getLsbD k)

/-- `V[0]` to `V[n-1]` in order: the bytes REG_DUMP stores (R164). -/
def State.firstRegs (s : State) (n : Nat) : List Byte := (List.range n).map (fun k => s.getV (BitVec.ofNat 4 k))

/-- Load `V[0]` to `V[n-1]` from ascending addresses at `I` (R165). -/
def State.loadRegs (s : State) : Nat → State
  | 0 => s
  | n + 1 => (s.loadRegs n).setV (BitVec.ofNat 4 n) (s.readByte (s.ea n))

end Sys2Proof.Machine
end

