-- ==== Sys2Proof/Machine/Alu.lean ====
section
/-!
DEFINITION. Register load, arithmetic, logic, shift and random instructions (spec/42_alu.md R130 to R142). Each ends
with `pc <- pc + 2`, and none can fault.
-/

namespace Sys2Proof.Machine

/-- SET (R130). -/
def execSetImm (x : RegIdx) (nn : Byte) (s : State) : Result := .next (s.setV x nn).advance

/-- ADD_IMM: no flag (R131). -/
def execAddImm (x : RegIdx) (nn : Byte) (s : State) : Result := .next (s.setV x (addMod (s.getV x) nn)).advance

/-- SET_REG (R132). -/
def execSetReg (x y : RegIdx) (s : State) : Result := .next (s.setV x (s.getV y)).advance

/-- OR: no flag (R133, D12). -/
def execOrReg (x y : RegIdx) (s : State) : Result := .next (s.setV x (s.getV x ||| s.getV y)).advance

/-- AND: no flag (R134, D12). -/
def execAndReg (x y : RegIdx) (s : State) : Result := .next (s.setV x (s.getV x &&& s.getV y)).advance

/-- XOR: no flag (R135, D12). -/
def execXorReg (x y : RegIdx) (s : State) : Result := .next (s.setV x (s.getV x ^^^ s.getV y)).advance

/-- ADD_REG with carry in VF (R136). -/
def execAddReg (x y : RegIdx) (s : State) : Result :=
  .next (s.setFlagged x (addMod (s.getV x) (s.getV y)) (addCarry (s.getV x) (s.getV y))).advance

/-- SUB_REG: the absolute difference, with the greater-than flag in VF (R137). -/
def execSubReg (x y : RegIdx) (s : State) : Result :=
  .next (s.setFlagged x (subResult (s.getV x) (s.getV y)) (subFlag (s.getV x) (s.getV y))).advance

/-- SHR: `Vx` in place, the `Y` field ignored (R138, D11). -/
def execShr (x : RegIdx) (s : State) : Result :=
  .next (s.setFlagged x (shrResult (s.getV x)) (shrFlag (s.getV x))).advance

/-- SUBN: `Vy - Vx` modulo 256, with the greater-than flag in VF (R139). -/
def execSubn (x y : RegIdx) (s : State) : Result :=
  .next (s.setFlagged x (subnResult (s.getV x) (s.getV y)) (subFlag (s.getV y) (s.getV x))).advance

/-- SHL: `Vx` in place, the `Y` field ignored (R140, D11). -/
def execShl (x : RegIdx) (s : State) : Result :=
  .next (s.setFlagged x (shlResult (s.getV x)) (shlFlag (s.getV x))).advance

/-- RANDOM: the random byte of this Cycle under the mask `NN` (R141). -/
def execRandom (x : RegIdx) (nn : Byte) (s : State) : Result := .next (s.setV x (s.rnd &&& nn)).advance

end Sys2Proof.Machine
end

