-- ==== Sys2Proof/Machine/Display.lean ====
section
/-!
DEFINITION. Display instructions: CLEAR and DRAW (spec/44_display.md R180 to R184).
-/

namespace Sys2Proof.Machine

/-- CLEAR: every pixel off; `draw_pending` is not written (R180, D20). -/
def execClearFb (s : State) : Result := .next (s.setFb Framebuffer.clear).advance

/-- Where the pixel in column `c` of row `r` of a sprite at `(x0, y0)` falls: each coordinate wraps on its own
(R181, R182). -/
def spritePlace (x0 y0 r c : Nat) : Fin 64 × Fin 32 := (Fin.ofNat 64 (x0 + c), Fin.ofNat 32 (y0 + r))

/-- The places of the 1 bits of one sprite row, left to right: bit 7 is the leftmost (R183). -/
def spriteRow (x0 y0 r : Nat) (b : Byte) : List (Fin 64 × Fin 32) :=
  ((List.range 8).filter (fun c => b.getLsbD (7 - c))).map (fun c => spritePlace x0 y0 r c)

/-- The places of the 1 bits of the `n`-row sprite at `I`, in the order of the loops of R181. -/
def State.spritePlaces (s : State) (x0 y0 n : Nat) : List (Fin 64 × Fin 32) :=
  (List.range n).flatMap (fun r => spriteRow x0 y0 r (s.readByte (s.ea r)))

/-- One pixel under a 1 bit: note a collision when it is on, and complement it (R181). -/
def drawPixel (acc : Framebuffer × Bool) (p : Fin 64 × Fin 32) : Framebuffer × Bool :=
  (Framebuffer.flip acc.1 p.1 p.2, acc.2 || Framebuffer.pixel acc.1 p.1 p.2)

/-- The framebuffer and the collision flag after the sprite (R181). -/
def drawPlaces (f : Framebuffer) (ps : List (Fin 64 × Fin 32)) : Framebuffer × Bool := ps.foldl drawPixel (f, false)

/-- DRAW: the sprite at `I` onto the framebuffer, the collision flag to VF, and `draw_pending` set (R181). -/
def execDraw (x y : RegIdx) (n : Nibble) (s : State) : Result :=
  let places := s.spritePlaces ((s.getV x).toNat % 64) ((s.getV y).toNat % 32) n.toNat
  let drawn := drawPlaces s.fb places
  s.withRange n.toNat (((s.setFb drawn.1).setV VF (flagByte drawn.2)).setDrawPending true).advance

end Sys2Proof.Machine
end

