-- ==== Sys2Proof/Machine/Flow.lean ====
section
/-!
DEFINITION. Control transfer: RETURN, JUMP, CALL, JUMP_PLUS and the four compare skips (spec/41_flow.md R110 to R119).
-/

namespace Sys2Proof.Machine

/-- RETURN: resume after the CALL whose address is on top of the stack (R110). -/
def execRet (s : State) : Result :=
  match s.pop with
  | some (w, t) => .next (t.setPc (w + 2#16))
  | none => raise .stackUnderflow s.pc s

/-- JUMP: `pc <- NNN`, unchecked (R111). -/
def execJump (nnn : Addr12) (s : State) : Result := .next (s.setPc (zextAddr nnn))

/-- CALL: push the address of this instruction, then jump (R112). -/
def execCall (nnn : Addr12) (s : State) : Result :=
  match s.push s.pc with
  | some t => .next (t.setPc (zextAddr nnn))
  | none => raise .stackOverflow s.pc s

/-- JUMP_PLUS: `pc <- NNN + V0`, not reduced to 12 bits (R113). -/
def execJumpPlus (nnn : Addr12) (s : State) : Result := .next (s.setPc (zextAddr nnn + zextByte (s.getV 0#4)))

/-- SKIP_EQ_IMM (R114). -/
def execSkipEqImm (x : RegIdx) (nn : Byte) (s : State) : Result := .next (s.skipIf (s.getV x == nn))

/-- SKIP_NEQ_IMM (R115). -/
def execSkipNeqImm (x : RegIdx) (nn : Byte) (s : State) : Result := .next (s.skipIf (s.getV x != nn))

/-- SKIP_EQ_REG (R116). -/
def execSkipEqReg (x y : RegIdx) (s : State) : Result := .next (s.skipIf (s.getV x == s.getV y))

/-- SKIP_NEQ_REG (R117). -/
def execSkipNeqReg (x y : RegIdx) (s : State) : Result := .next (s.skipIf (s.getV x != s.getV y))

end Sys2Proof.Machine
end

