-- ==== Sys2Proof/Machine/IndexMem.lean ====
section
/-!
DEFINITION. Index register and memory instructions (spec/43_index_memory.md R160 to R166). None of the accesses writes
`I` (R166).
-/

namespace Sys2Proof.Machine

/-- SET_INDEX (R160). -/
def execSetIndex (nnn : Addr12) (s : State) : Result := .next (s.setI (zextAddr nnn)).advance

/-- ADD_INDEX: modulo 65536, no flag (R161). -/
def execAddIndex (x : RegIdx) (s : State) : Result := .next (s.setI (s.i + zextByte (s.getV x))).advance

/-- FONT_ADDR: `Vx * 5` for every value of `Vx` (R162, D27). -/
def execFontAddr (x : RegIdx) (s : State) : Result := .next (s.setI (BitVec.ofNat 16 ((s.getV x).toNat * 5))).advance

/-- The three decimal digits of a byte, hundreds first (R163). -/
def bcdDigits (a : Byte) : List Byte :=
  [BitVec.ofNat 8 (a.toNat / 100), BitVec.ofNat 8 (a.toNat / 10 % 10), BitVec.ofNat 8 (a.toNat % 10)]

/-- BCD (R163). -/
def execBcd (x : RegIdx) (s : State) : Result :=
  s.withRange 3 (s.writeBytes (s.ea 0) (bcdDigits (s.getV x))).advance

/-- REG_DUMP: `V[0]` to `V[X]`, inclusive (R164). -/
def execRegDump (x : RegIdx) (s : State) : Result :=
  s.withRange (x.toNat + 1) (s.writeBytes (s.ea 0) (s.firstRegs (x.toNat + 1))).advance

/-- REG_LOAD: `V[0]` to `V[X]`, inclusive (R165). -/
def execRegLoad (x : RegIdx) (s : State) : Result :=
  s.withRange (x.toNat + 1) (s.loadRegs (x.toNat + 1)).advance

end Sys2Proof.Machine
end

