-- ==== Sys2Proof/Machine/KeysTimers.lean ====
section
/-!
DEFINITION. Key and timer instructions (spec/45_keys_timers.md R190 to R195). `key`, `dt` and `st` are as this cycle's
snapshot and tick left them.
-/

namespace Sys2Proof.Machine

/-- SKIP_KEY: skip when the key numbered `Vx` is down (R190). -/
def execSkipKey (x : RegIdx) (s : State) : Result :=
  match s.keyNamed x with
  | some down => .next (s.skipIf down)
  | none => raise .keyIndex (zextByte (s.getV x)) s

/-- SKIP_NOTKEY: skip when the key numbered `Vx` is not down (R191). -/
def execSkipNotkey (x : RegIdx) (s : State) : Result :=
  match s.keyNamed x with
  | some down => .next (s.skipIf (!down))
  | none => raise .keyIndex (zextByte (s.getV x)) s

/-- What GET_KEY leaves: the least key that is down in `Vx` and `pc` advanced, or nothing changed, `pc` included, when
none is (R192). -/
def State.takeKey (s : State) (x : RegIdx) : State :=
  match leastKey s.key with
  | some k => (s.setV x (BitVec.ofNat 8 k)).advance
  | none => s

/-- GET_KEY (R192). -/
def execGetKey (x : RegIdx) (s : State) : Result := .next (s.takeKey x)

/-- GET_DELAY (R193). -/
def execGetDelay (x : RegIdx) (s : State) : Result := .next (s.setV x s.dt).advance

/-- SET_DELAY (R194). -/
def execSetDelay (x : RegIdx) (s : State) : Result := .next (s.setDt (s.getV x)).advance

/-- SET_SOUND (R195). -/
def execSetSound (x : RegIdx) (s : State) : Result := .next (s.setSt (s.getV x)).advance

end Sys2Proof.Machine
end

