-- ==== Sys2Proof/Machine/Cycle.lean ====
section
/-!
DEFINITION. The cycle (spec/40_cycle.md R90 to R101): keys, timers, fetch, record, dispatch, and one handler or the
fallback.
-/

namespace Sys2Proof.Machine

/-- The fallback for an unmatched word: no handler, `pc` unchanged (R98, `UNMATCHED_ADVANCE = false`). -/
def unmatchedCycle (s : State) : Result := if Config.unmatchedAdvance then .next s.advance else .next s

/-- Decode, dispatch and execute a fetched word, after recording it in `last_opcode` (R95, R96). -/
def runWord (w : Word) (s : State) : Result :=
  match decodeWord w with
  | .ok i => exec i (s.setLastOpcode w)
  | .error _ => unmatchedCycle (s.setLastOpcode w)

/-- Fetch and run, or raise FETCH_BOUNDS with `fault_info = pc` (R94, R211). -/
def fetchAndRun (s : State) : Result :=
  match s.fetch with
  | some w => runWord w s
  | none => raise .fetchBounds s.pc s

/-- The host operation `Cycle(keys, rnd)`: no effect on a halted machine (R91); else key snapshot, timer tick, fetch,
record, dispatch, execute (R90). Its return value is the `last_opcode` it leaves (R99). -/
def cycle (keys : BitVec 16) (rnd : Byte) (s : State) : Result :=
  if s.halted then .next s else fetchAndRun (s.latch keys rnd).tickTimers

/-- The step of a halted machine: a halted state has no successor (R91). -/
def haltedStep (_s : State) : Result := .fault .halted

/-- Take the arguments the host supplies and run one Cycle with them (R244). -/
def inputCycle (s : State) : Result := cycle s.nextInput.keys s.nextInput.rnd s.takeInput

/-- One Cycle for each of the given arguments in turn, stopping where there is no next state (R245). -/
def runCycles : List CycleInput → State → Result
  | [], s => .next s
  | c :: rest, s =>
    match cycle c.keys c.rnd s with
    | .next t => runCycles rest t
    | .fault r => .fault r
    | .refused r => .refused r

end Sys2Proof.Machine
end

