-- ==== Sys2Proof/Machine/Step.lean ====
section
/-!
DEFINITION. One step of the machine: one Cycle with the host's arguments (spec/00_scope.md R3), and where a test places
the instruction a step fetches.
-/

namespace Sys2Proof.Machine

/-- One step: one Cycle (R3, R90); a halted machine has no successor (R91). -/
def step (s : State) : Host.Outcome State Fault Refusal := if s.halted then haltedStep s else inputCycle s

/-- The state with an instruction word stored where the next step fetches: at `pc`, high byte first (R43). -/
def State.withFetchWord (s : State) (nbits w : Nat) : State :=
  s.writeBytes s.pc.toNat [hiByte (tableWord nbits w), loByte (tableWord nbits w)]

end Sys2Proof.Machine
end

