-- ==== Sys2Proof/Machine/HostOps.lean ====
section
/-!
DEFINITION. The host operations beside Cycle: Reset, Load, DisplayAck and Observe, and the sequences of the five that a
host may issue (spec/70_reset_and_hazards.md R240 to R248).
-/

namespace Sys2Proof.Machine

/-- Reset, in any state: every element of the hardware's state to the value of R26 (R240). The model's own record of
the host's coming arguments is no state of the hardware, and stays. -/
def hostReset (s : State) : State := { State.reset with inputs := s.inputs, cycleNo := s.cycleNo }

/-- The failed result of Load (R216, R243). -/
inductive LoadError where
  /-- LOAD_ERROR: the program is longer than `MAX_ROM`. -/
  | tooLong
  deriving DecidableEq, Repr

/-- Load: the bytes from 0x200 and `pc <- 0x200`, or LOAD_ERROR and no change (R242, R243). -/
def hostLoad (bytes : List Byte) (s : State) : Except LoadError State :=
  if romFits bytes then
    .ok ((s.writeBytes Config.loadBase bytes).setPc (BitVec.ofNat 16 Config.loadBase))
  else .error .tooLong

/-- DisplayAck: `draw_pending <- 0` and nothing else (R246). -/
def hostDisplayAck (s : State) : State := s.setDrawPending false

/-- What Observe reads: the fifteen elements of R10, `sp` as an integer, the framebuffer row by row (R247, D31). -/
structure Observation where
  /-- `mem[0]` to `mem[0xFFF]`. -/
  mem : List Byte
  /-- `V[0]` to `V[15]`. -/
  v : List Byte
  /-- `I`. -/
  i : Word
  /-- `pc`. -/
  pc : Word
  /-- `stack[0]` to `stack[15]`. -/
  stack : List Word
  /-- `sp`, an integer in -1 to 15. -/
  sp : Int
  /-- `dt`. -/
  dt : Byte
  /-- `st`. -/
  st : Byte
  /-- `fb`, at index `y * 64 + x`. -/
  fb : List Bool
  /-- `key`. -/
  key : BitVec 16
  /-- `draw_pending`. -/
  drawPending : Bool
  /-- `last_opcode`. -/
  lastOpcode : Word
  /-- `halted`. -/
  halted : Bool
  /-- `fault_cause`, as its code. -/
  faultCause : BitVec 3
  /-- `fault_info`. -/
  faultInfo : Word
  deriving DecidableEq, Repr

/-- Observe: read the state without changing it (R247). -/
def hostObserve (s : State) : Observation where
  mem := (List.range Config.memSize).map s.readByte
  v := s.v.toList
  i := s.i
  pc := s.pc
  stack := s.stack.toList
  sp := s.sp
  dt := s.dt
  st := s.st
  fb := s.fb.toList.flatMap Vector.toList
  key := s.key
  drawPending := s.drawPending
  lastOpcode := s.lastOpcode
  halted := s.halted
  faultCause := s.faultCause.code
  faultInfo := s.faultInfo

/-- The five host operations (R244, R245). -/
inductive HostOp where
  /-- Reset (R240). -/
  | reset
  /-- Load (R242). -/
  | load (bytes : List Byte)
  /-- Cycle (R90, R244). -/
  | cycle (keys : BitVec 16) (rnd : Byte)
  /-- DisplayAck (R246). -/
  | displayAck
  /-- Observe (R247). -/
  | observe
  deriving DecidableEq, Repr

/-- What an operation returns to the host (R248). -/
inductive HostOutput where
  /-- Reset and DisplayAck return nothing. -/
  | nothing
  /-- A Load succeeded. -/
  | loaded
  /-- LOAD_ERROR (R243). -/
  | loadError
  /-- The word a Cycle returns (R99). -/
  | word (w : Word)
  /-- What Observe read. -/
  | seen (o : Observation)
  deriving DecidableEq, Repr

/-- One host operation: the state it leaves and what it returns (R245, R248). -/
def hostOp (op : HostOp) (s : State) : Host.Outcome (State × HostOutput) Fault Refusal :=
  match op with
  | .reset => .next (hostReset s, .nothing)
  | .load bytes =>
    match hostLoad bytes s with
    | .ok t => .next (t, .loaded)
    | .error _ => .next (s, .loadError)
  | .cycle keys rnd =>
    match cycle keys rnd s with
    | .next t => .next (t, .word t.lastOpcode)
    | .fault r => .fault r
    | .refused r => .refused r
  | .displayAck => .next (hostDisplayAck s, .nothing)
  | .observe => .next (s, .seen (hostObserve s))

/-- A sequence of operations the host may issue from the start: Reset first, then any of the five (R241, R245). -/
def legalHostOps : List HostOp → Bool
  | .reset :: _ => true
  | .load _ :: _ | .cycle _ _ :: _ | .displayAck :: _ | .observe :: _ => false
  | [] => false

/-- Host operations one at a time, each complete before the next begins: the state they leave and what each returned,
in order (R245, R248). The host has no other move. -/
def runHostOps : List HostOp → State → Host.Outcome (State × List HostOutput) Fault Refusal
  | [], s => .next (s, [])
  | op :: rest, s =>
    match hostOp op s with
    | .next (t, out) =>
      match runHostOps rest t with
      | .next (u, outs) => .next (u, out :: outs)
      | .fault r => .fault r
      | .refused r => .refused r
    | .fault r => .fault r
    | .refused r => .refused r

end Sys2Proof.Machine
end

