-- ==== Sys2Proof/Safety.lean ====
section
/-!
DEFINITION. The terms claims use: the instruction a cycle executes, when a handler faults (spec/60_exceptions.md R210), the
invariant of the machine, and the record of a fault; a safe run is one in which no handler faults.
-/

namespace Sys2Proof

/-- The instructions that define a flag (R12). -/
def Instr.definesFlag (i : Instr) : Bool :=
  match i with
  | .addReg _ _ | .subReg _ _ | .shr _ _ | .subn _ _ | .shl _ _ | .draw _ _ _ => true
  | .clearFb | .ret | .jump _ | .call _ | .skipEqImm _ _ | .skipNeqImm _ _ | .skipEqReg _ _ | .setImm _ _
  | .addImm _ _ | .setReg _ _ | .orReg _ _ | .andReg _ _ | .xorReg _ _ | .skipNeqReg _ _ | .setIndex _ | .jumpPlus _
  | .random _ _ | .skipKey _ | .skipNotkey _ | .getDelay _ | .getKey _ | .setDelay _ | .setSound _ | .addIndex _
  | .fontAddr _ | .bcd _ | .regDump _ | .regLoad _ => false

/-- The register an instruction that defines no flag writes as its destination, if any; REG_LOAD is taken by its last
register (R12). -/
def Instr.ordinaryDest (i : Instr) : Option RegIdx :=
  match i with
  | .setImm x _ | .addImm x _ | .setReg x _ | .orReg x _ | .andReg x _ | .xorReg x _ | .random x _ | .getDelay x
  | .getKey x | .regLoad x => some x
  | .addReg _ _ | .subReg _ _ | .shr _ _ | .subn _ _ | .shl _ _ | .draw _ _ _ | .clearFb | .ret | .jump _ | .call _
  | .skipEqImm _ _ | .skipNeqImm _ _ | .skipEqReg _ _ | .skipNeqReg _ _ | .setIndex _ | .jumpPlus _ | .skipKey _
  | .skipNotkey _ | .setDelay _ | .setSound _ | .addIndex _ | .fontAddr _ | .bcd _ | .regDump _ => none

end Sys2Proof

namespace Sys2Proof.Machine

/-- The instruction the next cycle executes: none when the fetch is out of range or the word is unmatched. -/
def State.nextInstr (s : State) : Option Instr :=
  match s.fetch with
  | none => none
  | some w =>
    match decodeWord w with
    | .ok i => some i
    | .error _ => none

/-- Every byte of memory reads as before. -/
def SameMemory (s t : State) : Prop := ∀ a : Nat, t.readByte a = s.readByte a

/-- The fault a handler raises and its `fault_info`: the table of R210 with the conditions of R212 to R215, written
from the operands and not from the handlers. -/
def handlerFault (i : Instr) (s : State) : Option (FaultCause × Nat) :=
  match i with
  | .ret => if s.sp = -1 then some (.stackUnderflow, s.pc.toNat) else none
  | .call _ => if s.sp = 15 then some (.stackOverflow, s.pc.toNat) else none
  | .draw _ _ n =>
    if 0 < n.toNat ∧ 0xFFF < s.i.toNat + n.toNat - 1 then some (.memBounds, max s.i.toNat 0x1000) else none
  | .bcd _ => if 0xFFF < s.i.toNat + 2 then some (.memBounds, max s.i.toNat 0x1000) else none
  | .regDump x => if 0xFFF < s.i.toNat + x.toNat then some (.memBounds, max s.i.toNat 0x1000) else none
  | .regLoad x => if 0xFFF < s.i.toNat + x.toNat then some (.memBounds, max s.i.toNat 0x1000) else none
  | .skipKey x => if 15 < (s.getV x).toNat then some (.keyIndex, (s.getV x).toNat) else none
  | .skipNotkey x => if 15 < (s.getV x).toNat then some (.keyIndex, (s.getV x).toNat) else none
  | .clearFb | .jump _ | .skipEqImm _ _ | .skipNeqImm _ _ | .skipEqReg _ _ | .setImm _ _ | .addImm _ _
  | .setReg _ _ | .orReg _ _ | .andReg _ _ | .xorReg _ _ | .addReg _ _ | .subReg _ _ | .shr _ _ | .subn _ _
  | .shl _ _ | .skipNeqReg _ _ | .setIndex _ | .jumpPlus _ | .random _ _ | .getDelay _ | .getKey _ | .setDelay _
  | .setSound _ | .addIndex _ | .fontAddr _ => none

/-- The invariant of the machine: memory is in canonical form (R40), `pc` is at most 0x10FE (R15, R119), every live
stack entry is the address of a CALL that was fetched (R110), and the fault fields agree (R21). -/
structure Invariant (s : State) : Prop where
  /-- Memory is in canonical form. -/
  mem : s.mem.wf
  /-- `pc` is at most the largest value a handler can write. -/
  pc : s.pc.toNat ≤ 0x10FE
  /-- Every live stack entry is at most 0xFFE. -/
  stack : ∀ (k : Nat) (h : k < 16), (k : Int) ≤ s.sp → (s.stack[k]'h).toNat ≤ 0xFFE
  /-- `halted = 0` if and only if no fault has occurred. -/
  halted : s.halted = false ↔ s.faultCause = .none

/-- The record of a fault names what the machine stopped on (R210 to R215), for a machine that has only run Cycles since
Reset. -/
def FaultRecordOk (s : State) : Prop :=
  match s.faultCause with
  | .none => s.halted = false ∧ s.faultInfo = 0#16
  | .fetchBounds => s.halted = true ∧ s.faultInfo = s.pc ∧ 0xFFF ≤ s.pc.toNat
  | .stackUnderflow => s.halted = true ∧ s.faultInfo = s.pc ∧ s.sp = -1 ∧ s.lastOpcode = 0x00EE#16
  | .stackOverflow => s.halted = true ∧ s.faultInfo = s.pc ∧ s.sp = 15 ∧ s.lastOpcode.toNat / 4096 = 2
  | .memBounds => s.halted = true ∧ s.faultInfo.toNat = max s.i.toNat 0x1000 ∧ 0xFF1 ≤ s.i.toNat
  | .keyIndex => s.halted = true ∧ ∃ x : RegIdx, s.faultInfo.toNat = (s.getV x).toNat ∧ 15 < (s.getV x).toNat

end Sys2Proof.Machine
end

