-- ==== Sys2Proof/Certificates/Slice0/Obligations.lean ====
section
/-!
DEFINITION. The statements for the provers. Where a docstring says "the spec's own choice D<n>", the clause rests on a
decision of spec/92_eei_decisions.md and not on the source document.
-/

open Sys2Proof Sys2Proof.Machine

/-! ### Encoding -/

/-- R61, R62: the decoder's nibbles, most significant first, and the match predicate; the operand fields of R64. -/
def Obligations.DecoderSplitsFields : Prop :=
  ∀ hi lo : Byte,
    (decodeBytes hi lo).raw.toNat = hi.toNat * 256 + lo.toNat ∧
    (decodeBytes hi lo).n0.toNat = hi.toNat / 16 ∧
    (decodeBytes hi lo).n1.toNat = hi.toNat % 16 ∧
    (decodeBytes hi lo).n2.toNat = lo.toNat / 16 ∧
    (decodeBytes hi lo).n3.toNat = lo.toNat % 16 ∧
    (decodeBytes hi lo).nn.toNat = lo.toNat ∧
    (decodeBytes hi lo).nnn.toNat = (hi.toNat % 16) * 256 + lo.toNat ∧
    ∀ mask pattern : Word,
      (decodeBytes hi lo).fits mask pattern = true ↔ (decodeBytes hi lo).raw &&& mask = pattern

/-- Words written out from the dispatch table decode to their instructions, at least one of each family, and two words
outside it are unmatched (R71). The names `word8XYn` and `word5XYn` those two are rejected under are the model's own
choice (notes/assumptions/9.md): R69 has the one outcome UNMATCHED. -/
def Obligations.SpecWordsDecode : Prop :=
  decodeWord 0x00E0#16 = .ok .clearFb ∧
  decodeWord 0x00EE#16 = .ok .ret ∧
  decodeWord 0x1ABC#16 = .ok (.jump 0xABC#12) ∧
  decodeWord 0x3A05#16 = .ok (.skipEqImm 0xA#4 0x05#8) ∧
  decodeWord 0x5AB0#16 = .ok (.skipEqReg 0xA#4 0xB#4) ∧
  decodeWord 0x6A05#16 = .ok (.setImm 0xA#4 0x05#8) ∧
  decodeWord 0x8ABE#16 = .ok (.shl 0xA#4 0xB#4) ∧
  decodeWord 0xC30F#16 = .ok (.random 0x3#4 0x0F#8) ∧
  decodeWord 0xD125#16 = .ok (.draw 0x1#4 0x2#4 0x5#4) ∧
  decodeWord 0xE59E#16 = .ok (.skipKey 0x5#4) ∧
  decodeWord 0xF315#16 = .ok (.setDelay 0x3#4) ∧
  decodeWord 0xFF65#16 = .ok (.regLoad 0xF#4) ∧
  decodeWord 0x8AB8#16 = .error .word8XYn ∧
  decodeWord 0x5AB1#16 = .error .word5XYn

/-- Decoding the word of any instruction gives that instruction, with every operand at every value: no bit of an
encoding is dropped. The table's masks and the `8XYn` numbering are the spec's own choices D7 and D8. -/
def Obligations.DecodeOfEncode : Prop :=
  ∀ i : Instr, i.wf = true ∧ decodeWord (encode i) = .ok i

/-- A word that decodes is the word of what it decodes to: each matched word has one meaning (the
masks and the `8XYn` numbering are the spec's own choices D7 and D8). -/
def Obligations.EncodeOfDecode : Prop :=
  ∀ (w : Word) (i : Instr), decodeWord w = .ok i → encode i = w

/-- R68: no word fits two rows of the table, so the priority order does not matter (it rests on the masks, the
spec's own choice D7). -/
def Obligations.NoWordFitsTwoRows : Prop :=
  dispatchTable.length = 34 ∧
  ∀ hi lo : Byte, dispatchTable.countP (fun r => (decodeBytes hi lo).fits r.mask r.pattern) ≤ 1

/-- The unmatched words are exactly the six classes of the table of R71, given here by their bits. That a class is
rejected under a name of its own is the model's choice (notes/assumptions/9.md): R69 has the one outcome UNMATCHED. -/
def Obligations.UnmatchedWordsByClass : Prop :=
  ∀ w : Word,
    (decodeWord w = .error .word0NNN ↔ w.toNat < 0x1000 ∧ w.toNat ≠ 0x00E0 ∧ w.toNat ≠ 0x00EE) ∧
    (decodeWord w = .error .word5XYn ↔ w.toNat / 4096 = 5 ∧ w.toNat % 16 ≠ 0) ∧
    (decodeWord w = .error .word8XYn ↔ w.toNat / 4096 = 8 ∧ 8 ≤ w.toNat % 16 ∧ w.toNat % 16 ≠ 14) ∧
    (decodeWord w = .error .word9XYn ↔ w.toNat / 4096 = 9 ∧ w.toNat % 16 ≠ 0) ∧
    (decodeWord w = .error .wordEXnn ↔ w.toNat / 4096 = 14 ∧ w.toNat % 256 ∉ [0x9E, 0xA1]) ∧
    (decodeWord w = .error .wordFXnn ↔ w.toNat / 4096 = 15 ∧
      w.toNat % 256 ∉ [0x07, 0x0A, 0x15, 0x18, 0x1E, 0x29, 0x33, 0x55, 0x65])

/-! ### Reset -/

/-- The table of R26 for every element outside memory. The document states `sp` and the placement of the font; the
zeros and `pc` are the spec's own choice D23, the fault fields D4. -/
def Obligations.ResetLeavesTheTable : Prop :=
  (∀ x : RegIdx, State.reset.getV x = 0#8) ∧ State.reset.i = 0#16 ∧ State.reset.pc = 0x200#16 ∧
  (∀ (k : Nat) (h : k < 16), State.reset.stack[k]'h = 0#16) ∧ State.reset.sp = -1 ∧
  State.reset.dt = 0#8 ∧ State.reset.st = 0#8 ∧
  (∀ x y, Framebuffer.pixel State.reset.fb x y = false) ∧ State.reset.key = 0#16 ∧
  State.reset.drawPending = false ∧ State.reset.lastOpcode = 0#16 ∧ State.reset.halted = false ∧
  State.reset.faultCause.code = 0#3 ∧ State.reset.faultInfo = 0#16

/-- R24, R26: memory after Reset holds the font at 0x000 to 0x04F and zero above. The bytes of the font are general
knowledge, the spec's own choice D22, and the zeros are D23. -/
def Obligations.ResetHoldsTheFont : Prop :=
  (List.range 80).map State.reset.readByte =
    [0xF0#8, 0x90#8, 0x90#8, 0x90#8, 0xF0#8, 0x20#8, 0x60#8, 0x20#8, 0x20#8, 0x70#8,
     0xF0#8, 0x10#8, 0xF0#8, 0x80#8, 0xF0#8, 0xF0#8, 0x10#8, 0xF0#8, 0x10#8, 0xF0#8,
     0x90#8, 0x90#8, 0xF0#8, 0x10#8, 0x10#8, 0xF0#8, 0x80#8, 0xF0#8, 0x10#8, 0xF0#8,
     0xF0#8, 0x80#8, 0xF0#8, 0x90#8, 0xF0#8, 0xF0#8, 0x10#8, 0x20#8, 0x40#8, 0x40#8,
     0xF0#8, 0x90#8, 0xF0#8, 0x90#8, 0xF0#8, 0xF0#8, 0x90#8, 0xF0#8, 0x10#8, 0xF0#8,
     0xF0#8, 0x90#8, 0xF0#8, 0x90#8, 0x90#8, 0xE0#8, 0x90#8, 0xE0#8, 0x90#8, 0xE0#8,
     0xF0#8, 0x80#8, 0x80#8, 0x80#8, 0xF0#8, 0xE0#8, 0x90#8, 0x90#8, 0x90#8, 0xE0#8,
     0xF0#8, 0x80#8, 0xF0#8, 0x80#8, 0xF0#8, 0xF0#8, 0x80#8, 0xF0#8, 0x80#8, 0x80#8] ∧
  ∀ a : Nat, 0x50 ≤ a → a ≤ 0xFFF → State.reset.readByte a = 0#8

/-! ### The cycle -/

/-- When the two bytes at `pc` decode to an instruction, a step of a machine that has not stopped is that handler, run
after the keys were replaced, the timers ticked and the word was recorded, with `pc` still at the instruction (R90,
R92 to R97; the key sampling is the spec's own choice D34 and `last_opcode` is D33). Where the two arguments of the Cycle
come from, and the clauses on `rnd`, `inputs` and `cycleNo`, are the model's own choice (notes/assumptions/1.md). -/
def Obligations.StepRunsDecodedInstruction : Prop :=
  ∀ (s : State) (i : Instr), s.halted = false → s.pc.toNat + 1 ≤ 0xFFF →
    decode (s.readByte s.pc.toNat) (s.readByte (s.pc.toNat + 1)) = .ok i →
    step s = exec i { s with
      key := s.nextInput.keys
      rnd := s.nextInput.rnd
      dt := BitVec.ofNat 8 (s.dt.toNat - 1)
      st := BitVec.ofNat 8 (s.st.toNat - 1)
      lastOpcode := BitVec.ofNat 16 ((s.readByte s.pc.toNat).toNat * 256 + (s.readByte (s.pc.toNat + 1)).toNat)
      inputs := s.inputs.tail
      cycleNo := s.cycleNo + 1 }

/-- What every Cycle of a machine that has not stopped commits, whatever it executes and whether or not it faults: the
keys (D34), the tick of each timer unless the instruction is the one that then writes that timer, and the word
fetched (D33, D5), big-endian; a fetch out of range leaves `last_opcode`. -/
def Obligations.CycleCommitsKeysTimersAndWord : Prop :=
  ∀ (keys : BitVec 16) (rnd : Byte) (s : State), s.halted = false →
    ∃ t, cycle keys rnd s = .next t ∧ t.key = keys ∧
      (s.pc.toNat + 1 ≤ 0xFFF → t.lastOpcode.toNat =
        (s.readByte s.pc.toNat).toNat * 256 + (s.readByte (s.pc.toNat + 1)).toNat) ∧
      (0xFFF < s.pc.toNat + 1 → t.lastOpcode = s.lastOpcode) ∧
      ((∀ x, s.nextInstr ≠ some (.setDelay x)) → t.dt.toNat = s.dt.toNat - 1) ∧
      ((∀ x, s.nextInstr ≠ some (.setSound x)) → t.st.toNat = s.st.toNat - 1)

/-- R91 and D4 (the spec's own choice): a Cycle on a halted machine has no effect, whatever its arguments, and a halted
state has no successor step. That `step` then answers a stop named `halted` is the model's form of it
(notes/assumptions/2.md). -/
def Obligations.HaltedMachineStays : Prop :=
  ∀ (keys : BitVec 16) (rnd : Byte) (s : State), s.halted = true →
    cycle keys rnd s = .next s ∧
    hostOp (.cycle keys rnd) s = .next (s, .word s.lastOpcode) ∧
    step s = .fault .halted

/-- A fetch at `pc >= 0xFFF` raises FETCH_BOUNDS with `fault_info = pc`: keys replaced, timers ticked, `last_opcode` and
everything else as before (that fetch is among the fatal bounds is the spec's own choice D3; the commits are D5, the
fault fields D4). The field `rnd` is the model's own (notes/assumptions/1.md). -/
def Obligations.FetchBeyondMemoryFaults : Prop :=
  ∀ (keys : BitVec 16) (rnd : Byte) (s : State), s.halted = false → 0xFFF < s.pc.toNat + 1 →
    cycle keys rnd s = .next { s with
      key := keys
      rnd := rnd
      dt := BitVec.ofNat 8 (s.dt.toNat - 1)
      st := BitVec.ofNat 8 (s.st.toNat - 1)
      halted := true
      faultCause := .fetchBounds
      faultInfo := s.pc }

/-- R98: a word that matches no row executes no handler and leaves `pc`; the cycle has replaced the keys, ticked the
timers and recorded the word. That `pc` is not advanced is the spec's own choice D6. The field `rnd` is the model's own
(notes/assumptions/1.md). -/
def Obligations.UnmatchedWordIsInert : Prop :=
  ∀ (keys : BitVec 16) (rnd : Byte) (s : State) (u : Unmatched), s.halted = false → s.pc.toNat + 1 ≤ 0xFFF →
    decode (s.readByte s.pc.toNat) (s.readByte (s.pc.toNat + 1)) = .error u →
    cycle keys rnd s = .next { s with
      key := keys
      rnd := rnd
      dt := BitVec.ofNat 8 (s.dt.toNat - 1)
      st := BitVec.ofNat 8 (s.st.toNat - 1)
      lastOpcode := BitVec.ofNat 16 ((s.readByte s.pc.toNat).toNat * 256 + (s.readByte (s.pc.toNat + 1)).toNat) }

/-- R98 (the spec's own choice D6): on an unmatched word the machine repeats the inert cycle for ever, under any inputs,
with the timers running down to 0 and never a fault. The field `rnd` is the model's own (notes/assumptions/1.md). -/
def Obligations.UnmatchedWordRepeatsForever : Prop :=
  ∀ (ins : List CycleInput) (s : State) (u : Unmatched), s.halted = false → s.pc.toNat + 1 ≤ 0xFFF →
    decode (s.readByte s.pc.toNat) (s.readByte (s.pc.toNat + 1)) = .error u →
    ∃ t, runCycles ins s = .next t ∧ t.dt.toNat = s.dt.toNat - ins.length ∧
      t.st.toNat = s.st.toNat - ins.length ∧
      t = { s with key := t.key, rnd := t.rnd, dt := t.dt, st := t.st, lastOpcode := t.lastOpcode }

/-- The inputs of a Cycle reach only the instructions that read them: a cycle that does not execute RANDOM ignores `rnd`
(R141, the spec's own choice D18), and one that executes none of the three key instructions ignores `keys` but for
`key` itself (R219). The field `rnd` that holds the byte is the model's own (notes/assumptions/1.md). -/
def Obligations.InputsReachOnlyTheirReaders : Prop :=
  (∀ (keys : BitVec 16) (r r' : Byte) (s : State), s.halted = false →
    (∀ x nn, s.nextInstr ≠ some (.random x nn)) →
    ∃ t, cycle keys r s = .next t ∧ cycle keys r' s = .next { t with rnd := r' }) ∧
  (∀ (keys keys' : BitVec 16) (r : Byte) (s : State), s.halted = false →
    (∀ x, s.nextInstr ≠ some (.skipKey x) ∧ s.nextInstr ≠ some (.skipNotkey x) ∧ s.nextInstr ≠ some (.getKey x)) →
    ∃ t, cycle keys r s = .next t ∧ cycle keys' r s = .next { t with key := keys' })

/-- Every handler, and every Cycle, ends in a next state on every state and all operands: no instruction is refused and
none stops the model. -/
def Obligations.EveryHandlerAnswers : Prop :=
  (∀ (i : Instr) (s : State), ∃ t, exec i s = .next t) ∧
  (∀ (keys : BitVec 16) (rnd : Byte) (s : State), ∃ t, cycle keys rnd s = .next t)

/-! ### Control flow -/

/-- RETURN. With `sp = k` live it resumes at `stack[k] + 2` and drops the entry without clearing it; with `sp = -1` it
raises STACK_UNDERFLOW and writes only the fault fields. That the entry is a CALL's own address, that RETURN passes
it and that the entry stays are the spec's own choice D13; the fault fields are D4. -/
def Obligations.ReturnResumesAfterCall : Prop :=
  (∀ (s : State) (k : Nat) (h : k < 16), s.sp = k →
    ∃ t, exec .ret s = .next t ∧ t.pc = s.stack[k]'h + 2#16 ∧ t.sp = s.sp - 1 ∧
      t = { s with pc := t.pc, depth := t.depth } ∧ SameMemory s t) ∧
  (∀ s : State, s.sp = -1 →
    exec .ret s = .next { s with halted := true, faultCause := .stackUnderflow, faultInfo := s.pc })

/-- R111: the word `1NNN` is JUMP, which loads `NNN`, zero-extended and unchecked, into `pc`, and changes nothing else. -/
def Obligations.JumpLoadsTarget : Prop :=
  ∀ (nnn : Addr12) (s : State), decodeWord (BitVec.ofNat 16 (0x1000 + nnn.toNat)) = .ok (.jump nnn) ∧
    ∃ t, exec (.jump nnn) s = .next t ∧ t.pc.toNat = nnn.toNat ∧ t = { s with pc := t.pc } ∧ SameMemory s t

/-- R113: the word `BNNN` is JUMP_PLUS, which sets `pc` to `NNN + V0`, not reduced to 12 bits, and changes nothing
else. -/
def Obligations.JumpPlusAddsV0 : Prop :=
  ∀ (nnn : Addr12) (s : State), decodeWord (BitVec.ofNat 16 (0xB000 + nnn.toNat)) = .ok (.jumpPlus nnn) ∧
    ∃ t, exec (.jumpPlus nnn) s = .next t ∧ t.pc.toNat = nnn.toNat + (s.getV 0#4).toNat ∧
      t = { s with pc := t.pc } ∧ SameMemory s t

/-- CALL. With fewer than sixteen entries live it pushes its own address (D13) and loads `NNN`; with `sp = 15` it raises
STACK_OVERFLOW (D15, D4: the spec's own choices) and writes only the fault fields. -/
def Obligations.CallPushesItsOwnAddress : Prop :=
  (∀ (nnn : Addr12) (s : State), s.sp < 15 →
    ∃ t, exec (.call nnn) s = .next t ∧ t.sp = s.sp + 1 ∧ t.pc.toNat = nnn.toNat ∧
      (∀ (k : Nat) (h : k < 16), t.stack[k]'h = if (k : Int) = s.sp + 1 then s.pc else s.stack[k]'h) ∧
      t = { s with pc := t.pc, depth := t.depth, stack := t.stack } ∧ SameMemory s t) ∧
  (∀ (nnn : Addr12) (s : State), s.sp = 15 →
    exec (.call nnn) s = .next { s with halted := true, faultCause := .stackOverflow, faultInfo := s.pc })

/-- The four compare skips: `pc` moves by 4 when the unsigned comparison holds, else by 2, and nothing else changes.
Which pattern tests equality is the spec's own choice D30. -/
def Obligations.SkipsCompareUnsigned : Prop :=
  ∀ (x y : RegIdx) (nn : Byte) (s : State),
    exec (.skipEqImm x nn) s =
      .next { s with pc := s.pc + (if (s.getV x).toNat = nn.toNat then 4#16 else 2#16) } ∧
    exec (.skipNeqImm x nn) s =
      .next { s with pc := s.pc + (if (s.getV x).toNat = nn.toNat then 2#16 else 4#16) } ∧
    exec (.skipEqReg x y) s =
      .next { s with pc := s.pc + (if (s.getV x).toNat = (s.getV y).toNat then 4#16 else 2#16) } ∧
    exec (.skipNeqReg x y) s =
      .next { s with pc := s.pc + (if (s.getV x).toNat = (s.getV y).toNat then 2#16 else 4#16) }

/-- A CALL and the RETURN of its subroutine resume at the instruction after the CALL, at the old depth, whatever the
subroutine did to the state in between, as long as it left the stack as the CALL made it (D13). -/
def Obligations.CallThenReturnResumes : Prop :=
  ∀ (nnn : Addr12) (s : State), s.sp < 15 →
    ∃ t, exec (.call nnn) s = .next t ∧
      ∀ u : State, u.stack = t.stack → u.depth = t.depth →
        ∃ v, exec .ret u = .next v ∧ v.pc = s.pc + 2#16 ∧ v.sp = s.sp ∧
          v = { u with pc := v.pc, depth := v.depth }

/-- R119: run from a fetched `pc`, with live stack entries that are fetched addresses, no handler writes a `pc` above
0x10FE, only JUMP_PLUS can go above 0x1002, RETURN at most 0x1000, JUMP and CALL at most 0xFFF (a CALL or RETURN that
faults leaves `pc`). -/
def Obligations.HandlersBoundThePc : Prop :=
  ∀ (i : Instr) (s t : State), s.pc.toNat ≤ 0xFFE →
    (∀ (k : Nat) (h : k < 16), s.sp = k → (s.stack[k]'h).toNat ≤ 0xFFE) → exec i s = .next t →
    t.pc.toNat ≤ 0x10FE ∧
    ((∀ nnn, i ≠ .jumpPlus nnn) → t.pc.toNat ≤ 0x1002) ∧
    (i = .ret → t.pc.toNat ≤ 0x1000) ∧
    ((∃ nnn, i = .jump nnn ∨ i = .call nnn) → t.pc.toNat ≤ 0xFFF)

/-! ### Arithmetic and logic -/

/-- R130: the word `6XNN` is SET, which loads `NN` into `Vx`, VF included, and passes the instruction. -/
def Obligations.SetLoadsImmediate : Prop :=
  ∀ (x : RegIdx) (nn : Byte) (s : State),
    decodeWord (BitVec.ofNat 16 (0x6000 + x.toNat * 256 + nn.toNat)) = .ok (.setImm x nn) ∧
    ∃ t, exec (.setImm x nn) s = .next t ∧ (∀ y, t.getV y = if y = x then nn else s.getV y) ∧
      t = { s with v := t.v, pc := s.pc + 2#16 } ∧ SameMemory s t

/-- R131: the word `7XNN` is ADD_IMM, which adds `NN` modulo 256 and writes no flag: VF changes only as the
destination. -/
def Obligations.AddImmWrapsWithoutFlag : Prop :=
  ∀ (x : RegIdx) (nn : Byte) (s : State),
    decodeWord (BitVec.ofNat 16 (0x7000 + x.toNat * 256 + nn.toNat)) = .ok (.addImm x nn) ∧
    ∃ t, exec (.addImm x nn) s = .next t ∧
      (∀ y, (t.getV y).toNat = if y = x then ((s.getV x).toNat + nn.toNat) % 256 else (s.getV y).toNat) ∧
      t = { s with v := t.v, pc := s.pc + 2#16 } ∧ SameMemory s t

/-- SET_REG, OR, AND and XOR, bit by bit, with no flag (the meanings are general knowledge, G8 and D8; that VF is left is
the spec's own choice D12). -/
def Obligations.CopyAndLogicLeaveFlagAlone : Prop :=
  ∀ (x y : RegIdx) (s : State),
    (∃ t, exec (.setReg x y) s = .next t ∧ (∀ z, t.getV z = if z = x then s.getV y else s.getV z) ∧
      t = { s with v := t.v, pc := s.pc + 2#16 } ∧ SameMemory s t) ∧
    (∃ t, exec (.orReg x y) s = .next t ∧
      (∀ b, (t.getV x).getLsbD b = ((s.getV x).getLsbD b || (s.getV y).getLsbD b)) ∧
      (∀ z, z ≠ x → t.getV z = s.getV z) ∧ t = { s with v := t.v, pc := s.pc + 2#16 } ∧ SameMemory s t) ∧
    (∃ t, exec (.andReg x y) s = .next t ∧
      (∀ b, (t.getV x).getLsbD b = ((s.getV x).getLsbD b && (s.getV y).getLsbD b)) ∧
      (∀ z, z ≠ x → t.getV z = s.getV z) ∧ t = { s with v := t.v, pc := s.pc + 2#16 } ∧ SameMemory s t) ∧
    (∃ t, exec (.xorReg x y) s = .next t ∧
      (∀ b, (t.getV x).getLsbD b = ((s.getV x).getLsbD b ^^ (s.getV y).getLsbD b)) ∧
      (∀ z, z ≠ x → t.getV z = s.getV z) ∧ t = { s with v := t.v, pc := s.pc + 2#16 } ∧ SameMemory s t)

/-- ADD_REG: `Vx` is the sum modulo 256 and VF is 1 exactly when the sum exceeds 255; for `X = 15` the flag overwrites
the sum (the order of the writes is the spec's own choice D10). -/
def Obligations.AddRegCarries : Prop :=
  ∀ (x y : RegIdx) (s : State),
    ∃ t, exec (.addReg x y) s = .next t ∧
      (∀ z, (t.getV z).toNat =
        if z = VF then (if 255 < (s.getV x).toNat + (s.getV y).toNat then 1 else 0)
        else if z = x then ((s.getV x).toNat + (s.getV y).toNat) % 256 else (s.getV z).toNat) ∧
      t = { s with v := t.v, pc := s.pc + 2#16 } ∧ SameMemory s t

/-- SUB_REG: `Vx` is the absolute difference and VF is 1 exactly when `Vx > Vy` (the absolute difference is the spec's
own choice D9, `SUB_MODE = absdiff`; the order of the writes is D10). -/
def Obligations.SubRegAbsoluteDifference : Prop :=
  ∀ (x y : RegIdx) (s : State),
    ∃ t, exec (.subReg x y) s = .next t ∧
      (∀ z, ((t.getV z).toNat : Int) =
        if z = VF then (if (s.getV y).toNat < (s.getV x).toNat then 1 else 0)
        else if z = x then |((s.getV x).toNat : Int) - ((s.getV y).toNat : Int)| else ((s.getV z).toNat : Int)) ∧
      t = { s with v := t.v, pc := s.pc + 2#16 } ∧ SameMemory s t

/-- SHR: `Vx` is halved and VF is the bit shifted out; the `Y` field has no effect (D11; the order of the writes is D10). -/
def Obligations.ShrShiftsOut : Prop :=
  ∀ (x y : RegIdx) (s : State),
    ∃ t, exec (.shr x y) s = .next t ∧
      (∀ z, (t.getV z).toNat =
        if z = VF then (s.getV x).toNat % 2 else if z = x then (s.getV x).toNat / 2 else (s.getV z).toNat) ∧
      t = { s with v := t.v, pc := s.pc + 2#16 } ∧ SameMemory s t

/-- SUBN: `Vx` is `(Vy - Vx) mod 256` and VF is 1 exactly when `Vy > Vx` (the nibble is D8, the order of the writes
D10). -/
def Obligations.SubnWraps : Prop :=
  ∀ (x y : RegIdx) (s : State),
    ∃ t, exec (.subn x y) s = .next t ∧
      (∀ z, ((t.getV z).toNat : Int) =
        if z = VF then (if (s.getV x).toNat < (s.getV y).toNat then 1 else 0)
        else if z = x then (((s.getV y).toNat : Int) - ((s.getV x).toNat : Int)) % 256
        else ((s.getV z).toNat : Int)) ∧
      t = { s with v := t.v, pc := s.pc + 2#16 } ∧ SameMemory s t

/-- SHL: `Vx` is doubled modulo 256 and VF is the bit shifted out; the `Y` field has no effect (D11; the order of the
writes is D10). -/
def Obligations.ShlShiftsOut : Prop :=
  ∀ (x y : RegIdx) (s : State),
    ∃ t, exec (.shl x y) s = .next t ∧
      (∀ z, (t.getV z).toNat =
        if z = VF then (s.getV x).toNat / 128 else if z = x then (2 * (s.getV x).toNat) % 256 else (s.getV z).toNat) ∧
      t = { s with v := t.v, pc := s.pc + 2#16 } ∧ SameMemory s t

/-- RANDOM: `Vx` is this Cycle's random byte under the mask, whatever that byte is (a free input, the spec's own choice
D18; the field `rnd` that holds it is the model's own, notes/assumptions/1.md). -/
def Obligations.RandomMasksTheDraw : Prop :=
  ∀ (x : RegIdx) (nn : Byte) (s : State),
    ∃ t, exec (.random x nn) s = .next t ∧
      (∀ b, (t.getV x).getLsbD b = (s.rnd.getLsbD b && nn.getLsbD b)) ∧ (∀ z, z ≠ x → t.getV z = s.getV z) ∧
      t = { s with v := t.v, pc := s.pc + 2#16 } ∧ SameMemory s t

/-- R12: after an instruction that defines a flag and does not fault, VF is 0 or 1; any other instruction leaves VF
unless it names VF as its destination. -/
def Obligations.FlagRegisterRule : Prop :=
  ∀ (i : Instr) (s t : State), s.halted = false → exec i s = .next t →
    (i.definesFlag = true → t.halted = false → (t.getV VF).toNat = 0 ∨ (t.getV VF).toNat = 1) ∧
    (i.definesFlag = false → i.ordinaryDest ≠ some VF → t.getV VF = s.getV VF)

/-! ### Index register and memory -/

/-- R160: the word `ANNN` is SET_INDEX, which loads `NNN`, zero-extended, into `I`. -/
def Obligations.SetIndexLoadsAddress : Prop :=
  ∀ (nnn : Addr12) (s : State), decodeWord (BitVec.ofNat 16 (0xA000 + nnn.toNat)) = .ok (.setIndex nnn) ∧
    ∃ t, exec (.setIndex nnn) s = .next t ∧ t.i.toNat = nnn.toNat ∧ t = { s with i := t.i, pc := s.pc + 2#16 } ∧
      SameMemory s t

/-- R161: the word `FX1E` is ADD_INDEX, which adds `Vx` to `I` modulo 65536, without a flag and without a fault. -/
def Obligations.AddIndexWraps16 : Prop :=
  ∀ (x : RegIdx) (s : State), decodeWord (BitVec.ofNat 16 (0xF01E + x.toNat * 256)) = .ok (.addIndex x) ∧
    ∃ t, exec (.addIndex x) s = .next t ∧ t.i.toNat = (s.i.toNat + (s.getV x).toNat) % 65536 ∧
      t = { s with i := t.i, pc := s.pc + 2#16 } ∧ SameMemory s t

/-- FONT_ADDR: `I` is `5 * Vx` for every value of `Vx` (that values above 15 are not masked is the spec's own choice
D27). -/
def Obligations.FontAddrMultipliesByFive : Prop :=
  ∀ (x : RegIdx) (s : State),
    ∃ t, exec (.fontAddr x) s = .next t ∧ t.i.toNat = 5 * (s.getV x).toNat ∧
      t = { s with i := t.i, pc := s.pc + 2#16 } ∧ SameMemory s t

/-- BCD: when the three addresses exist it stores the decimal digits, hundreds first, and nothing else; otherwise it
raises MEM_BOUNDS and stores nothing (the check before any effect is the spec's own choice D21, the fault fields D4,
that `I` stays D28). -/
def Obligations.BcdStoresThreeDigits : Prop :=
  (∀ (x : RegIdx) (s : State), s.i.toNat + 2 ≤ 0xFFF →
    ∃ t, exec (.bcd x) s = .next t ∧
      (∀ a : Nat, (t.readByte a).toNat =
        if a = s.ea 0 then (s.getV x).toNat / 100
        else if a = s.ea 1 then (s.getV x).toNat / 10 % 10
        else if a = s.ea 2 then (s.getV x).toNat % 10 else (s.readByte a).toNat) ∧
      t = { s with mem := t.mem, pc := s.pc + 2#16 }) ∧
  (∀ (x : RegIdx) (s : State), 0xFFF < s.i.toNat + 2 →
    ∃ t, exec (.bcd x) s = .next t ∧ t.faultInfo.toNat = max s.i.toNat 0x1000 ∧
      t = { s with halted := true, faultCause := .memBounds, faultInfo := t.faultInfo } ∧ SameMemory s t)

/-- REG_DUMP: when the last address exists it stores `V[0]` to `V[X]` at `I` and up, and nothing else; otherwise it raises
MEM_BOUNDS and stores nothing (D21, D4, D28 as for BCD). -/
def Obligations.RegDumpStoresRegisters : Prop :=
  (∀ (x : RegIdx) (s : State), s.i.toNat + x.toNat ≤ 0xFFF →
    ∃ t, exec (.regDump x) s = .next t ∧
      (∀ k : RegIdx, k.toNat ≤ x.toNat → t.readByte (s.ea k.toNat) = s.getV k) ∧
      (∀ a : Nat, (∀ k ≤ x.toNat, a ≠ s.ea k) → t.readByte a = s.readByte a) ∧
      t = { s with mem := t.mem, pc := s.pc + 2#16 }) ∧
  (∀ (x : RegIdx) (s : State), 0xFFF < s.i.toNat + x.toNat →
    ∃ t, exec (.regDump x) s = .next t ∧ t.faultInfo.toNat = max s.i.toNat 0x1000 ∧
      t = { s with halted := true, faultCause := .memBounds, faultInfo := t.faultInfo } ∧ SameMemory s t)

/-- REG_LOAD: when the last address exists it loads `V[0]` to `V[X]` from `I` and up, VF like any register, and keeps the
registers above; otherwise it raises MEM_BOUNDS and loads nothing (D21, D4, D28 as for BCD). -/
def Obligations.RegLoadLoadsRegisters : Prop :=
  (∀ (x : RegIdx) (s : State), s.i.toNat + x.toNat ≤ 0xFFF →
    ∃ t, exec (.regLoad x) s = .next t ∧
      (∀ k : RegIdx, t.getV k = if k.toNat ≤ x.toNat then s.readByte (s.i.toNat + k.toNat) else s.getV k) ∧
      t = { s with v := t.v, pc := s.pc + 2#16 } ∧ SameMemory s t) ∧
  (∀ (x : RegIdx) (s : State), 0xFFF < s.i.toNat + x.toNat →
    ∃ t, exec (.regLoad x) s = .next t ∧ t.faultInfo.toNat = max s.i.toNat 0x1000 ∧
      t = { s with halted := true, faultCause := .memBounds, faultInfo := t.faultInfo } ∧ SameMemory s t)

/-! ### Display -/

/-- CLEAR turns every pixel off and changes nothing else but `pc`; that it leaves `draw_pending` is the spec's own choice
D20. -/
def Obligations.ClearTurnsEveryPixelOff : Prop :=
  ∀ s : State, ∃ t, exec .clearFb s = .next t ∧ (∀ x y, Framebuffer.pixel t.fb x y = false) ∧
    t = { s with fb := t.fb, pc := s.pc + 2#16 } ∧ SameMemory s t

/-- DRAW: when the sprite's bytes exist (or there are none) it complements exactly the pixels under a 1 bit, each
coordinate wrapped, sets VF to whether one of them was on, sets `draw_pending`, and changes nothing else; otherwise it
raises MEM_BOUNDS and draws nothing. The bit order is general knowledge (D19), the life of `draw_pending` is D20, the
check before any effect D21, that VF is written last D10. -/
def Obligations.DrawXorsTheSprite : Prop :=
  (∀ (x y : RegIdx) (n : Nibble) (s : State), n.toNat = 0 ∨ s.i.toNat + n.toNat - 1 ≤ 0xFFF →
    ∃ t, exec (.draw x y n) s = .next t ∧
      (∀ (px : Fin 64) (py : Fin 32),
        (Framebuffer.pixel t.fb px py ≠ Framebuffer.pixel s.fb px py ↔
          ∃ r < n.toNat, ∃ c < 8, (s.readByte (s.i.toNat + r)).getLsbD (7 - c) = true ∧
            px.val = ((s.getV x).toNat % 64 + c) % 64 ∧ py.val = ((s.getV y).toNat % 32 + r) % 32)) ∧
      (t.getV VF).toNat ≤ 1 ∧
      ((t.getV VF).toNat = 1 ↔ ∃ px py,
        Framebuffer.pixel s.fb px py = true ∧ Framebuffer.pixel t.fb px py = false) ∧
      (∀ z, z ≠ VF → t.getV z = s.getV z) ∧ t.drawPending = true ∧
      t = { s with v := t.v, fb := t.fb, drawPending := t.drawPending, pc := s.pc + 2#16 } ∧ SameMemory s t) ∧
  (∀ (x y : RegIdx) (n : Nibble) (s : State), n.toNat ≠ 0 → 0xFFF < s.i.toNat + n.toNat - 1 →
    ∃ t, exec (.draw x y n) s = .next t ∧ t.faultInfo.toNat = max s.i.toNat 0x1000 ∧
      t = { s with halted := true, faultCause := .memBounds, faultInfo := t.faultInfo } ∧ SameMemory s t)

/-- R184: drawing the same sprite at the same place twice restores the framebuffer, and the second DRAW reports a
collision exactly when some pixel under a 1 bit was off before the first. The premise that `Vx` and `Vy` are the same
at both fails only when X or Y is 15 and the first DRAW changes VF. -/
def Obligations.DoubleDrawRestores : Prop :=
  ∀ (x y : RegIdx) (n : Nibble) (s t : State), n.toNat = 0 ∨ s.i.toNat + n.toNat - 1 ≤ 0xFFF →
    exec (.draw x y n) s = .next t → t.getV x = s.getV x → t.getV y = s.getV y →
    ∃ u, exec (.draw x y n) t = .next u ∧ u.fb = s.fb ∧
      ((u.getV VF).toNat = 1 ↔
        ∃ px py, Framebuffer.pixel s.fb px py = false ∧ Framebuffer.pixel t.fb px py = true)

/-! ### Keys and timers -/

/-- SKIP_KEY and SKIP_NOTKEY test the key numbered by the value of `Vx`; above 15 they raise KEY_INDEX with that value
(the spec's own choice D16, the fault fields D4). -/
def Obligations.KeySkipsTestTheNamedKey : Prop :=
  ∀ (x : RegIdx) (s : State),
    ((s.getV x).toNat ≤ 15 →
      exec (.skipKey x) s =
        .next { s with pc := s.pc + (if s.key.getLsbD (s.getV x).toNat = true then 4#16 else 2#16) } ∧
      exec (.skipNotkey x) s =
        .next { s with pc := s.pc + (if s.key.getLsbD (s.getV x).toNat = true then 2#16 else 4#16) }) ∧
    (15 < (s.getV x).toNat →
      exec (.skipKey x) s = .next { s with
        halted := true, faultCause := .keyIndex, faultInfo := BitVec.ofNat 16 (s.getV x).toNat } ∧
      exec (.skipNotkey x) s = .next { s with
        halted := true, faultCause := .keyIndex, faultInfo := BitVec.ofNat 16 (s.getV x).toNat })

/-- GET_KEY: with a key down, `Vx` is the least such key and `pc` advances once; with none down, nothing changes, `pc`
included (the selection is the spec's own choice D17). -/
def Obligations.GetKeyTakesTheLeastKey : Prop :=
  (∀ (x : RegIdx) (s : State) (k : Nat), k < 16 → s.key.getLsbD k = true → (∀ j < k, s.key.getLsbD j = false) →
    ∃ t, exec (.getKey x) s = .next t ∧
      (∀ y, (t.getV y).toNat = if y = x then k else (s.getV y).toNat) ∧
      t = { s with v := t.v, pc := s.pc + 2#16 } ∧ SameMemory s t) ∧
  (∀ (x : RegIdx) (s : State), (∀ k < 16, s.key.getLsbD k = false) → exec (.getKey x) s = .next s)

/-- The wait: over any number of cycles without a key down, GET_KEY changes only the keys, the random byte, the timers,
which run down, and the recorded word; the first cycle with a key down then advances `pc` exactly once. Which
key is taken is the spec's own choice D17; the field `rnd` is the model's own (notes/assumptions/1.md). -/
def Obligations.GetKeyWaitsForAKey : Prop :=
  ∀ (ins : List CycleInput) (last : CycleInput) (x : RegIdx) (s : State), s.halted = false →
    s.nextInstr = some (.getKey x) → (∀ c ∈ ins, c.keys = 0#16) → last.keys ≠ 0#16 →
    ∃ t u, runCycles ins s = .next t ∧ runCycles (ins ++ [last]) s = .next u ∧
      t.dt.toNat = s.dt.toNat - ins.length ∧ t.st.toNat = s.st.toNat - ins.length ∧
      t = { s with key := t.key, rnd := t.rnd, dt := t.dt, st := t.st, lastOpcode := t.lastOpcode } ∧
      u.pc = s.pc + 2#16 ∧ last.keys.getLsbD (u.getV x).toNat = true ∧
      (∀ j < (u.getV x).toNat, last.keys.getLsbD j = false) ∧ (∀ y, y ≠ x → u.getV y = s.getV y)

/-- R193 to R195 for the handlers: GET_DELAY copies `dt`, as this cycle's tick left it, to `Vx`; SET_DELAY and SET_SOUND
copy `Vx` to their timer. -/
def Obligations.TimerInstructionsCopy : Prop :=
  ∀ (x : RegIdx) (s : State),
    (∃ t, exec (.getDelay x) s = .next t ∧ (∀ y, t.getV y = if y = x then s.dt else s.getV y) ∧
      t = { s with v := t.v, pc := s.pc + 2#16 } ∧ SameMemory s t) ∧
    (∃ t, exec (.setDelay x) s = .next t ∧ t.dt = s.getV x ∧ t = { s with dt := t.dt, pc := s.pc + 2#16 } ∧
      SameMemory s t) ∧
    (∃ t, exec (.setSound x) s = .next t ∧ t.st = s.getV x ∧ t = { s with st := t.st, pc := s.pc + 2#16 } ∧
      SameMemory s t)

/-- R252: SET_DELAY with `n` followed at once by GET_DELAY reads `n - 1` (0 for `n = 0`), under any inputs of the two
cycles. -/
def Obligations.SetDelayThenGetDelay : Prop :=
  ∀ (c d : CycleInput) (x y : RegIdx) (s : State), s.halted = false → s.nextInstr = some (.setDelay x) →
    State.nextInstr { s with pc := s.pc + 2#16 } = some (.getDelay y) →
    ∃ u, runCycles [c, d] s = .next u ∧ (u.getV y).toNat = (s.getV x).toNat - 1 ∧
      (∀ z, z ≠ y → u.getV z = s.getV z) ∧ u.dt.toNat = (s.getV x).toNat - 1 ∧ u.pc = s.pc + 4#16

/-! ### Faults -/

/-- R101, R220 (the spec's own choices D4, D5): a handler that faults changes nothing but the three fault fields: `pc`
still addresses its instruction and no partial effect is left. -/
def Obligations.FaultingHandlerChangesNothingElse : Prop :=
  ∀ (i : Instr) (s t : State), s.halted = false → exec i s = .next t → t.halted = true →
    t = { s with halted := true, faultCause := t.faultCause, faultInfo := t.faultInfo } ∧
      t.faultCause ≠ .none ∧ SameMemory s t

/-- The table of R210 for all 34 handlers: each faults exactly under its condition, with its cause and information, and
otherwise leaves the fault fields (D3, D4, D15, D16 are the spec's own choices). -/
def Obligations.HandlersFaultExactlyWhen : Prop :=
  ∀ (i : Instr) (s : State), s.halted = false →
    ∃ t, exec i s = .next t ∧
      match handlerFault i s with
      | none => t.halted = false ∧ t.faultCause = s.faultCause ∧ t.faultInfo = s.faultInfo
      | some (c, n) => t.halted = true ∧ t.faultCause = c ∧ t.faultInfo.toNat = n

/-! ### Invariants and whole-machine rules -/

/-- Every step keeps the invariant: memory in canonical form, `pc` at most 0x10FE, live stack entries fetched
addresses, and the fault fields in agreement. The canonical form is the model's own (notes/assumptions/4.md); that CALL
pushes its own address and RETURN adds 2 is the spec's own choice D13, the fault fields are D4. -/
def Obligations.StepKeepsInvariant : Prop :=
  ∀ s t : State, Invariant s → step s = .next t → Invariant t

/-- Every step keeps the record of a fault: it names the condition the machine stopped on (the spec's own
choices D3, D4, D15 and D16). -/
def Obligations.StepKeepsFaultRecord : Prop :=
  ∀ s t : State, FaultRecordOk s → step s = .next t → FaultRecordOk t

/-- Reset meets the invariant and has no fault recorded (the zeros are the spec's own choice D23, the fault fields D4, the
canonical form of memory is the model's own, notes/assumptions/4.md). -/
def Obligations.ResetMeetsInvariants : Prop :=
  Invariant State.reset ∧ FaultRecordOk State.reset

/-- Every host operation, a Load of any bytes and a Cycle with any arguments included, keeps the invariant; and every
legal sequence of operations (R245: Reset first, then any of the five, one at a time), from any state at all, completes
with one output for each and leaves a state that meets the invariant. The operations are the spec's own interface D1,
what Load leaves is D25; the canonical form of memory is the model's own (notes/assumptions/4.md). -/
def Obligations.HostOperationsKeepInvariant : Prop :=
  (∀ (op : HostOp) (s t : State) (out : HostOutput), Invariant s → hostOp op s = .next (t, out) → Invariant t) ∧
  (∀ (ops : List HostOp) (s : State), legalHostOps ops = true →
    ∃ t outs, runHostOps ops s = .next (t, outs) ∧ outs.length = ops.length ∧ Invariant t)

/-- R14, R16: `I` is written by SET_INDEX, ADD_INDEX and FONT_ADDR only; the stack by CALL only; `sp` by CALL and RETURN
only. -/
def Obligations.IndexAndStackWriters : Prop :=
  ∀ (i : Instr) (s t : State), exec i s = .next t →
    (t.i ≠ s.i → (∃ nnn, i = .setIndex nnn) ∨ ∃ x, i = .addIndex x ∨ i = .fontAddr x) ∧
    (t.stack ≠ s.stack → ∃ nnn, i = .call nnn) ∧
    (t.sp ≠ s.sp → i = .ret ∨ ∃ nnn, i = .call nnn)

/-- R17, R18, R20: among handlers, `dt` is written by SET_DELAY only, `st` by SET_SOUND only, `fb` by CLEAR and DRAW
only, and `draw_pending` by DRAW only (D20), which sets it. -/
def Obligations.DisplayAndTimerWriters : Prop :=
  ∀ (i : Instr) (s t : State), exec i s = .next t →
    (t.dt ≠ s.dt → ∃ x, i = .setDelay x) ∧
    (t.st ≠ s.st → ∃ x, i = .setSound x) ∧
    (t.fb ≠ s.fb → i = .clearFb ∨ ∃ x y n, i = .draw x y n) ∧
    (t.drawPending ≠ s.drawPending → (∃ x y n, i = .draw x y n) ∧ t.drawPending = true)

/-- R40, R92, R95: among handlers, memory is written by BCD and REG_DUMP only, and no handler writes the key state, the
recorded word (D33) or the inputs of cycles (the model's own fields, notes/assumptions/1.md). -/
def Obligations.MemoryAndCycleRecordWriters : Prop :=
  ∀ (i : Instr) (s t : State), exec i s = .next t →
    (t.mem ≠ s.mem → ∃ x, i = .bcd x ∨ i = .regDump x) ∧
    t.key = s.key ∧ t.lastOpcode = s.lastOpcode ∧ t.rnd = s.rnd ∧ t.inputs = s.inputs ∧ t.cycleNo = s.cycleNo

/-! ### Host operations -/

/-- Load of at most 3584 bytes writes exactly the bytes from 0x200, in order, and `pc` (what else it leaves is the spec's
own choice D25). -/
def Obligations.LoadPlacesTheProgram : Prop :=
  ∀ (bytes : List Byte) (s : State), bytes.length ≤ 3584 →
    ∃ t, hostOp (.load bytes) s = .next (t, .loaded) ∧ t.pc = 0x200#16 ∧
      (∀ (k : Nat) (h : k < bytes.length), t.readByte (0x200 + k) = bytes[k]'h) ∧
      (∀ a : Nat, a < 0x200 ∨ 0x200 + bytes.length ≤ a → t.readByte a = s.readByte a) ∧
      t = { s with mem := t.mem, pc := t.pc }

/-- R243: Load of more than 3584 bytes returns LOAD_ERROR and changes nothing at all; it does not set `halted`. -/
def Obligations.OversizedLoadChangesNothing : Prop :=
  ∀ (bytes : List Byte) (s : State), 3584 < bytes.length →
    hostLoad bytes s = .error .tooLong ∧ hostOp (.load bytes) s = .next (s, .loadError)

/-- R247: Observe changes nothing and reads every element: memory by address, registers and stack by index, `sp` as an
integer, and the pixel (x, y) at index `y * 64 + x` (the order is the spec's own choice D31). -/
def Obligations.ObserveReadsEveryElement : Prop :=
  ∀ s : State, ∃ o, hostOp .observe s = .next (s, .seen o) ∧
    (∀ a < 4096, o.mem[a]? = some (s.readByte a)) ∧ (∀ x : RegIdx, o.v[x.toNat]? = some (s.getV x)) ∧
    (∀ (k : Nat) (h : k < 16), o.stack[k]? = some (s.stack[k]'h)) ∧ o.sp = s.sp ∧ -1 ≤ o.sp ∧ o.sp ≤ 15 ∧
    (∀ (x : Fin 64) (y : Fin 32), o.fb[y.val * 64 + x.val]? = some (Framebuffer.pixel s.fb x y)) ∧
    o.i = s.i ∧ o.pc = s.pc ∧ o.dt = s.dt ∧ o.st = s.st ∧ o.key = s.key ∧ o.drawPending = s.drawPending ∧
    o.lastOpcode = s.lastOpcode ∧ o.halted = s.halted ∧ o.faultCause = s.faultCause.code ∧
    o.faultInfo = s.faultInfo

/-- DisplayAck clears `draw_pending` and nothing else (D20); Reset, from any state, a halted one included, leaves what
Observe reads after Reset (D23). -/
def Obligations.DisplayAckAndResetWriteTheirs : Prop :=
  ∀ s : State,
    hostOp .displayAck s = .next ({ s with drawPending := false }, .nothing) ∧
    ∃ t, hostOp .reset s = .next (t, .nothing) ∧ hostObserve t = hostObserve State.reset ∧ t.halted = false
end

