-- ==== Sys2Proof/Laws/Decode.lean ====
section
/-!
SUPPORT. Dispatch: every row can match and no two rows overlap (spec/30_encoding.md R62, R68), so the row a word fits is
the row dispatch takes.
-/

namespace Sys2Proof

/-- Every row of the table can match (R62). -/
theorem dispatchTable_wf : ∀ r ∈ dispatchTable, r.wf = true := by
  simp [dispatchTable, dispatchRows1to9, dispatchRows10to18, dispatchRows19to25, dispatchRows26to34, Row.wf]

/-- No two rows of the table overlap (R68). -/
theorem dispatchTable_disjoint : dispatchTable.Pairwise (fun r q => r.disjoint q = true) := by
  simp [dispatchTable, dispatchRows1to9, dispatchRows10to18, dispatchRows19to25, dispatchRows26to34, Row.disjoint]

/-- Disjoint rows match no common word. -/
theorem Row.not_both {r q : Row} (h : r.disjoint q = true) (w : Word) (hr : w &&& r.mask = r.pattern) :
    w &&& q.mask ≠ q.pattern := by
  intro hq
  have : (r.pattern ^^^ q.pattern) &&& (r.mask &&& q.mask) = 0#16 := by
    rw [← hr, ← hq]
    apply BitVec.eq_of_getLsbD_eq
    intro i hi
    simp only [BitVec.getLsbD_and, BitVec.getLsbD_xor, BitVec.getLsbD_zero]
    cases w.getLsbD i <;> cases r.mask.getLsbD i <;> cases q.mask.getLsbD i <;> rfl
  simp [Row.disjoint, this] at h

/-- In a table without overlaps, the row a descriptor fits is the first it fits. -/
theorem find_row {t : List Row} (ht : t.Pairwise (fun r q => r.disjoint q = true)) {d : Descriptor} {r : Row}
    (hr : r ∈ t) (hf : d.fits r.mask r.pattern = true) :
    t.find? (fun q => d.fits q.mask q.pattern) = some r := by
  induction t with
  | nil => simp at hr
  | cons q t ih =>
    obtain ⟨hq, ht'⟩ := List.pairwise_cons.1 ht
    rcases List.mem_cons.1 hr with rfl | hr
    · simp [hf]
    · have hno : d.fits q.mask q.pattern = false := by
        cases h : d.fits q.mask q.pattern
        · rfl
        · simp only [Descriptor.fits, beq_iff_eq] at h hf
          exact absurd hf (Row.not_both (hq r hr) d.raw h)
      rw [List.find?_cons, hno]
      exact ih ht' hr

/-- Dispatch takes the row a descriptor fits (R67, R68). -/
theorem dispatch_of_fits {d : Descriptor} {r : Row} (hr : r ∈ dispatchTable)
    (hf : d.raw &&& r.mask = r.pattern) : dispatch d = .ok (r.build d) := by
  have : d.fits r.mask r.pattern = true := by simp [Descriptor.fits, hf]
  simp [dispatch, find_row dispatchTable_disjoint hr this]

end Sys2Proof
end

