-- ==== Sys2Proof/Laws/State.lean ====
section
/-!
SUPPORT. One lemma per field of State and per update of Machine/Ops.lean, so that no later proof unfolds an update.
-/

namespace Sys2Proof.Machine

/-! ### writeByte -/

@[simp] theorem State.writeByte_mem (s : State) (a : Nat) (b : Byte) :
    (s.writeByte a b).mem = Memory.write s.mem a b := rfl

@[simp] theorem State.writeByte_v (s : State) (a : Nat) (b : Byte) :
    (s.writeByte a b).v = s.v := rfl

@[simp] theorem State.writeByte_i (s : State) (a : Nat) (b : Byte) :
    (s.writeByte a b).i = s.i := rfl

@[simp] theorem State.writeByte_pc (s : State) (a : Nat) (b : Byte) :
    (s.writeByte a b).pc = s.pc := rfl

@[simp] theorem State.writeByte_stack (s : State) (a : Nat) (b : Byte) :
    (s.writeByte a b).stack = s.stack := rfl

@[simp] theorem State.writeByte_depth (s : State) (a : Nat) (b : Byte) :
    (s.writeByte a b).depth = s.depth := rfl

@[simp] theorem State.writeByte_dt (s : State) (a : Nat) (b : Byte) :
    (s.writeByte a b).dt = s.dt := rfl

@[simp] theorem State.writeByte_st (s : State) (a : Nat) (b : Byte) :
    (s.writeByte a b).st = s.st := rfl

@[simp] theorem State.writeByte_fb (s : State) (a : Nat) (b : Byte) :
    (s.writeByte a b).fb = s.fb := rfl

@[simp] theorem State.writeByte_key (s : State) (a : Nat) (b : Byte) :
    (s.writeByte a b).key = s.key := rfl

@[simp] theorem State.writeByte_drawPending (s : State) (a : Nat) (b : Byte) :
    (s.writeByte a b).drawPending = s.drawPending := rfl

@[simp] theorem State.writeByte_lastOpcode (s : State) (a : Nat) (b : Byte) :
    (s.writeByte a b).lastOpcode = s.lastOpcode := rfl

@[simp] theorem State.writeByte_halted (s : State) (a : Nat) (b : Byte) :
    (s.writeByte a b).halted = s.halted := rfl

@[simp] theorem State.writeByte_faultCause (s : State) (a : Nat) (b : Byte) :
    (s.writeByte a b).faultCause = s.faultCause := rfl

@[simp] theorem State.writeByte_faultInfo (s : State) (a : Nat) (b : Byte) :
    (s.writeByte a b).faultInfo = s.faultInfo := rfl

@[simp] theorem State.writeByte_rnd (s : State) (a : Nat) (b : Byte) :
    (s.writeByte a b).rnd = s.rnd := rfl

@[simp] theorem State.writeByte_inputs (s : State) (a : Nat) (b : Byte) :
    (s.writeByte a b).inputs = s.inputs := rfl

@[simp] theorem State.writeByte_cycleNo (s : State) (a : Nat) (b : Byte) :
    (s.writeByte a b).cycleNo = s.cycleNo := rfl

/-! ### setV -/

@[simp] theorem State.setV_mem (s : State) (x : RegIdx) (b : Byte) :
    (s.setV x b).mem = s.mem := rfl

@[simp] theorem State.setV_v (s : State) (x : RegIdx) (b : Byte) :
    (s.setV x b).v = s.v.set x.toNat b x.isLt := rfl

@[simp] theorem State.setV_i (s : State) (x : RegIdx) (b : Byte) :
    (s.setV x b).i = s.i := rfl

@[simp] theorem State.setV_pc (s : State) (x : RegIdx) (b : Byte) :
    (s.setV x b).pc = s.pc := rfl

@[simp] theorem State.setV_stack (s : State) (x : RegIdx) (b : Byte) :
    (s.setV x b).stack = s.stack := rfl

@[simp] theorem State.setV_depth (s : State) (x : RegIdx) (b : Byte) :
    (s.setV x b).depth = s.depth := rfl

@[simp] theorem State.setV_dt (s : State) (x : RegIdx) (b : Byte) :
    (s.setV x b).dt = s.dt := rfl

@[simp] theorem State.setV_st (s : State) (x : RegIdx) (b : Byte) :
    (s.setV x b).st = s.st := rfl

@[simp] theorem State.setV_fb (s : State) (x : RegIdx) (b : Byte) :
    (s.setV x b).fb = s.fb := rfl

@[simp] theorem State.setV_key (s : State) (x : RegIdx) (b : Byte) :
    (s.setV x b).key = s.key := rfl

@[simp] theorem State.setV_drawPending (s : State) (x : RegIdx) (b : Byte) :
    (s.setV x b).drawPending = s.drawPending := rfl

@[simp] theorem State.setV_lastOpcode (s : State) (x : RegIdx) (b : Byte) :
    (s.setV x b).lastOpcode = s.lastOpcode := rfl

@[simp] theorem State.setV_halted (s : State) (x : RegIdx) (b : Byte) :
    (s.setV x b).halted = s.halted := rfl

@[simp] theorem State.setV_faultCause (s : State) (x : RegIdx) (b : Byte) :
    (s.setV x b).faultCause = s.faultCause := rfl

@[simp] theorem State.setV_faultInfo (s : State) (x : RegIdx) (b : Byte) :
    (s.setV x b).faultInfo = s.faultInfo := rfl

@[simp] theorem State.setV_rnd (s : State) (x : RegIdx) (b : Byte) :
    (s.setV x b).rnd = s.rnd := rfl

@[simp] theorem State.setV_inputs (s : State) (x : RegIdx) (b : Byte) :
    (s.setV x b).inputs = s.inputs := rfl

@[simp] theorem State.setV_cycleNo (s : State) (x : RegIdx) (b : Byte) :
    (s.setV x b).cycleNo = s.cycleNo := rfl

/-! ### setI -/

@[simp] theorem State.setI_mem (s : State) (a : Word) :
    (s.setI a).mem = s.mem := rfl

@[simp] theorem State.setI_v (s : State) (a : Word) :
    (s.setI a).v = s.v := rfl

@[simp] theorem State.setI_i (s : State) (a : Word) :
    (s.setI a).i = a := rfl

@[simp] theorem State.setI_pc (s : State) (a : Word) :
    (s.setI a).pc = s.pc := rfl

@[simp] theorem State.setI_stack (s : State) (a : Word) :
    (s.setI a).stack = s.stack := rfl

@[simp] theorem State.setI_depth (s : State) (a : Word) :
    (s.setI a).depth = s.depth := rfl

@[simp] theorem State.setI_dt (s : State) (a : Word) :
    (s.setI a).dt = s.dt := rfl

@[simp] theorem State.setI_st (s : State) (a : Word) :
    (s.setI a).st = s.st := rfl

@[simp] theorem State.setI_fb (s : State) (a : Word) :
    (s.setI a).fb = s.fb := rfl

@[simp] theorem State.setI_key (s : State) (a : Word) :
    (s.setI a).key = s.key := rfl

@[simp] theorem State.setI_drawPending (s : State) (a : Word) :
    (s.setI a).drawPending = s.drawPending := rfl

@[simp] theorem State.setI_lastOpcode (s : State) (a : Word) :
    (s.setI a).lastOpcode = s.lastOpcode := rfl

@[simp] theorem State.setI_halted (s : State) (a : Word) :
    (s.setI a).halted = s.halted := rfl

@[simp] theorem State.setI_faultCause (s : State) (a : Word) :
    (s.setI a).faultCause = s.faultCause := rfl

@[simp] theorem State.setI_faultInfo (s : State) (a : Word) :
    (s.setI a).faultInfo = s.faultInfo := rfl

@[simp] theorem State.setI_rnd (s : State) (a : Word) :
    (s.setI a).rnd = s.rnd := rfl

@[simp] theorem State.setI_inputs (s : State) (a : Word) :
    (s.setI a).inputs = s.inputs := rfl

@[simp] theorem State.setI_cycleNo (s : State) (a : Word) :
    (s.setI a).cycleNo = s.cycleNo := rfl

/-! ### setPc -/

@[simp] theorem State.setPc_mem (s : State) (a : Word) :
    (s.setPc a).mem = s.mem := rfl

@[simp] theorem State.setPc_v (s : State) (a : Word) :
    (s.setPc a).v = s.v := rfl

@[simp] theorem State.setPc_i (s : State) (a : Word) :
    (s.setPc a).i = s.i := rfl

@[simp] theorem State.setPc_pc (s : State) (a : Word) :
    (s.setPc a).pc = a := rfl

@[simp] theorem State.setPc_stack (s : State) (a : Word) :
    (s.setPc a).stack = s.stack := rfl

@[simp] theorem State.setPc_depth (s : State) (a : Word) :
    (s.setPc a).depth = s.depth := rfl

@[simp] theorem State.setPc_dt (s : State) (a : Word) :
    (s.setPc a).dt = s.dt := rfl

@[simp] theorem State.setPc_st (s : State) (a : Word) :
    (s.setPc a).st = s.st := rfl

@[simp] theorem State.setPc_fb (s : State) (a : Word) :
    (s.setPc a).fb = s.fb := rfl

@[simp] theorem State.setPc_key (s : State) (a : Word) :
    (s.setPc a).key = s.key := rfl

@[simp] theorem State.setPc_drawPending (s : State) (a : Word) :
    (s.setPc a).drawPending = s.drawPending := rfl

@[simp] theorem State.setPc_lastOpcode (s : State) (a : Word) :
    (s.setPc a).lastOpcode = s.lastOpcode := rfl

@[simp] theorem State.setPc_halted (s : State) (a : Word) :
    (s.setPc a).halted = s.halted := rfl

@[simp] theorem State.setPc_faultCause (s : State) (a : Word) :
    (s.setPc a).faultCause = s.faultCause := rfl

@[simp] theorem State.setPc_faultInfo (s : State) (a : Word) :
    (s.setPc a).faultInfo = s.faultInfo := rfl

@[simp] theorem State.setPc_rnd (s : State) (a : Word) :
    (s.setPc a).rnd = s.rnd := rfl

@[simp] theorem State.setPc_inputs (s : State) (a : Word) :
    (s.setPc a).inputs = s.inputs := rfl

@[simp] theorem State.setPc_cycleNo (s : State) (a : Word) :
    (s.setPc a).cycleNo = s.cycleNo := rfl

/-! ### setDt -/

@[simp] theorem State.setDt_mem (s : State) (b : Byte) :
    (s.setDt b).mem = s.mem := rfl

@[simp] theorem State.setDt_v (s : State) (b : Byte) :
    (s.setDt b).v = s.v := rfl

@[simp] theorem State.setDt_i (s : State) (b : Byte) :
    (s.setDt b).i = s.i := rfl

@[simp] theorem State.setDt_pc (s : State) (b : Byte) :
    (s.setDt b).pc = s.pc := rfl

@[simp] theorem State.setDt_stack (s : State) (b : Byte) :
    (s.setDt b).stack = s.stack := rfl

@[simp] theorem State.setDt_depth (s : State) (b : Byte) :
    (s.setDt b).depth = s.depth := rfl

@[simp] theorem State.setDt_dt (s : State) (b : Byte) :
    (s.setDt b).dt = b := rfl

@[simp] theorem State.setDt_st (s : State) (b : Byte) :
    (s.setDt b).st = s.st := rfl

@[simp] theorem State.setDt_fb (s : State) (b : Byte) :
    (s.setDt b).fb = s.fb := rfl

@[simp] theorem State.setDt_key (s : State) (b : Byte) :
    (s.setDt b).key = s.key := rfl

@[simp] theorem State.setDt_drawPending (s : State) (b : Byte) :
    (s.setDt b).drawPending = s.drawPending := rfl

@[simp] theorem State.setDt_lastOpcode (s : State) (b : Byte) :
    (s.setDt b).lastOpcode = s.lastOpcode := rfl

@[simp] theorem State.setDt_halted (s : State) (b : Byte) :
    (s.setDt b).halted = s.halted := rfl

@[simp] theorem State.setDt_faultCause (s : State) (b : Byte) :
    (s.setDt b).faultCause = s.faultCause := rfl

@[simp] theorem State.setDt_faultInfo (s : State) (b : Byte) :
    (s.setDt b).faultInfo = s.faultInfo := rfl

@[simp] theorem State.setDt_rnd (s : State) (b : Byte) :
    (s.setDt b).rnd = s.rnd := rfl

@[simp] theorem State.setDt_inputs (s : State) (b : Byte) :
    (s.setDt b).inputs = s.inputs := rfl

@[simp] theorem State.setDt_cycleNo (s : State) (b : Byte) :
    (s.setDt b).cycleNo = s.cycleNo := rfl

/-! ### setSt -/

@[simp] theorem State.setSt_mem (s : State) (b : Byte) :
    (s.setSt b).mem = s.mem := rfl

@[simp] theorem State.setSt_v (s : State) (b : Byte) :
    (s.setSt b).v = s.v := rfl

@[simp] theorem State.setSt_i (s : State) (b : Byte) :
    (s.setSt b).i = s.i := rfl

@[simp] theorem State.setSt_pc (s : State) (b : Byte) :
    (s.setSt b).pc = s.pc := rfl

@[simp] theorem State.setSt_stack (s : State) (b : Byte) :
    (s.setSt b).stack = s.stack := rfl

@[simp] theorem State.setSt_depth (s : State) (b : Byte) :
    (s.setSt b).depth = s.depth := rfl

@[simp] theorem State.setSt_dt (s : State) (b : Byte) :
    (s.setSt b).dt = s.dt := rfl

@[simp] theorem State.setSt_st (s : State) (b : Byte) :
    (s.setSt b).st = b := rfl

@[simp] theorem State.setSt_fb (s : State) (b : Byte) :
    (s.setSt b).fb = s.fb := rfl

@[simp] theorem State.setSt_key (s : State) (b : Byte) :
    (s.setSt b).key = s.key := rfl

@[simp] theorem State.setSt_drawPending (s : State) (b : Byte) :
    (s.setSt b).drawPending = s.drawPending := rfl

@[simp] theorem State.setSt_lastOpcode (s : State) (b : Byte) :
    (s.setSt b).lastOpcode = s.lastOpcode := rfl

@[simp] theorem State.setSt_halted (s : State) (b : Byte) :
    (s.setSt b).halted = s.halted := rfl

@[simp] theorem State.setSt_faultCause (s : State) (b : Byte) :
    (s.setSt b).faultCause = s.faultCause := rfl

@[simp] theorem State.setSt_faultInfo (s : State) (b : Byte) :
    (s.setSt b).faultInfo = s.faultInfo := rfl

@[simp] theorem State.setSt_rnd (s : State) (b : Byte) :
    (s.setSt b).rnd = s.rnd := rfl

@[simp] theorem State.setSt_inputs (s : State) (b : Byte) :
    (s.setSt b).inputs = s.inputs := rfl

@[simp] theorem State.setSt_cycleNo (s : State) (b : Byte) :
    (s.setSt b).cycleNo = s.cycleNo := rfl

/-! ### setFb -/

@[simp] theorem State.setFb_mem (s : State) (f : Framebuffer) :
    (s.setFb f).mem = s.mem := rfl

@[simp] theorem State.setFb_v (s : State) (f : Framebuffer) :
    (s.setFb f).v = s.v := rfl

@[simp] theorem State.setFb_i (s : State) (f : Framebuffer) :
    (s.setFb f).i = s.i := rfl

@[simp] theorem State.setFb_pc (s : State) (f : Framebuffer) :
    (s.setFb f).pc = s.pc := rfl

@[simp] theorem State.setFb_stack (s : State) (f : Framebuffer) :
    (s.setFb f).stack = s.stack := rfl

@[simp] theorem State.setFb_depth (s : State) (f : Framebuffer) :
    (s.setFb f).depth = s.depth := rfl

@[simp] theorem State.setFb_dt (s : State) (f : Framebuffer) :
    (s.setFb f).dt = s.dt := rfl

@[simp] theorem State.setFb_st (s : State) (f : Framebuffer) :
    (s.setFb f).st = s.st := rfl

@[simp] theorem State.setFb_fb (s : State) (f : Framebuffer) :
    (s.setFb f).fb = f := rfl

@[simp] theorem State.setFb_key (s : State) (f : Framebuffer) :
    (s.setFb f).key = s.key := rfl

@[simp] theorem State.setFb_drawPending (s : State) (f : Framebuffer) :
    (s.setFb f).drawPending = s.drawPending := rfl

@[simp] theorem State.setFb_lastOpcode (s : State) (f : Framebuffer) :
    (s.setFb f).lastOpcode = s.lastOpcode := rfl

@[simp] theorem State.setFb_halted (s : State) (f : Framebuffer) :
    (s.setFb f).halted = s.halted := rfl

@[simp] theorem State.setFb_faultCause (s : State) (f : Framebuffer) :
    (s.setFb f).faultCause = s.faultCause := rfl

@[simp] theorem State.setFb_faultInfo (s : State) (f : Framebuffer) :
    (s.setFb f).faultInfo = s.faultInfo := rfl

@[simp] theorem State.setFb_rnd (s : State) (f : Framebuffer) :
    (s.setFb f).rnd = s.rnd := rfl

@[simp] theorem State.setFb_inputs (s : State) (f : Framebuffer) :
    (s.setFb f).inputs = s.inputs := rfl

@[simp] theorem State.setFb_cycleNo (s : State) (f : Framebuffer) :
    (s.setFb f).cycleNo = s.cycleNo := rfl

/-! ### setDrawPending -/

@[simp] theorem State.setDrawPending_mem (s : State) (b : Bool) :
    (s.setDrawPending b).mem = s.mem := rfl

@[simp] theorem State.setDrawPending_v (s : State) (b : Bool) :
    (s.setDrawPending b).v = s.v := rfl

@[simp] theorem State.setDrawPending_i (s : State) (b : Bool) :
    (s.setDrawPending b).i = s.i := rfl

@[simp] theorem State.setDrawPending_pc (s : State) (b : Bool) :
    (s.setDrawPending b).pc = s.pc := rfl

@[simp] theorem State.setDrawPending_stack (s : State) (b : Bool) :
    (s.setDrawPending b).stack = s.stack := rfl

@[simp] theorem State.setDrawPending_depth (s : State) (b : Bool) :
    (s.setDrawPending b).depth = s.depth := rfl

@[simp] theorem State.setDrawPending_dt (s : State) (b : Bool) :
    (s.setDrawPending b).dt = s.dt := rfl

@[simp] theorem State.setDrawPending_st (s : State) (b : Bool) :
    (s.setDrawPending b).st = s.st := rfl

@[simp] theorem State.setDrawPending_fb (s : State) (b : Bool) :
    (s.setDrawPending b).fb = s.fb := rfl

@[simp] theorem State.setDrawPending_key (s : State) (b : Bool) :
    (s.setDrawPending b).key = s.key := rfl

@[simp] theorem State.setDrawPending_drawPending (s : State) (b : Bool) :
    (s.setDrawPending b).drawPending = b := rfl

@[simp] theorem State.setDrawPending_lastOpcode (s : State) (b : Bool) :
    (s.setDrawPending b).lastOpcode = s.lastOpcode := rfl

@[simp] theorem State.setDrawPending_halted (s : State) (b : Bool) :
    (s.setDrawPending b).halted = s.halted := rfl

@[simp] theorem State.setDrawPending_faultCause (s : State) (b : Bool) :
    (s.setDrawPending b).faultCause = s.faultCause := rfl

@[simp] theorem State.setDrawPending_faultInfo (s : State) (b : Bool) :
    (s.setDrawPending b).faultInfo = s.faultInfo := rfl

@[simp] theorem State.setDrawPending_rnd (s : State) (b : Bool) :
    (s.setDrawPending b).rnd = s.rnd := rfl

@[simp] theorem State.setDrawPending_inputs (s : State) (b : Bool) :
    (s.setDrawPending b).inputs = s.inputs := rfl

@[simp] theorem State.setDrawPending_cycleNo (s : State) (b : Bool) :
    (s.setDrawPending b).cycleNo = s.cycleNo := rfl

/-! ### setLastOpcode -/

@[simp] theorem State.setLastOpcode_mem (s : State) (w : Word) :
    (s.setLastOpcode w).mem = s.mem := rfl

@[simp] theorem State.setLastOpcode_v (s : State) (w : Word) :
    (s.setLastOpcode w).v = s.v := rfl

@[simp] theorem State.setLastOpcode_i (s : State) (w : Word) :
    (s.setLastOpcode w).i = s.i := rfl

@[simp] theorem State.setLastOpcode_pc (s : State) (w : Word) :
    (s.setLastOpcode w).pc = s.pc := rfl

@[simp] theorem State.setLastOpcode_stack (s : State) (w : Word) :
    (s.setLastOpcode w).stack = s.stack := rfl

@[simp] theorem State.setLastOpcode_depth (s : State) (w : Word) :
    (s.setLastOpcode w).depth = s.depth := rfl

@[simp] theorem State.setLastOpcode_dt (s : State) (w : Word) :
    (s.setLastOpcode w).dt = s.dt := rfl

@[simp] theorem State.setLastOpcode_st (s : State) (w : Word) :
    (s.setLastOpcode w).st = s.st := rfl

@[simp] theorem State.setLastOpcode_fb (s : State) (w : Word) :
    (s.setLastOpcode w).fb = s.fb := rfl

@[simp] theorem State.setLastOpcode_key (s : State) (w : Word) :
    (s.setLastOpcode w).key = s.key := rfl

@[simp] theorem State.setLastOpcode_drawPending (s : State) (w : Word) :
    (s.setLastOpcode w).drawPending = s.drawPending := rfl

@[simp] theorem State.setLastOpcode_lastOpcode (s : State) (w : Word) :
    (s.setLastOpcode w).lastOpcode = w := rfl

@[simp] theorem State.setLastOpcode_halted (s : State) (w : Word) :
    (s.setLastOpcode w).halted = s.halted := rfl

@[simp] theorem State.setLastOpcode_faultCause (s : State) (w : Word) :
    (s.setLastOpcode w).faultCause = s.faultCause := rfl

@[simp] theorem State.setLastOpcode_faultInfo (s : State) (w : Word) :
    (s.setLastOpcode w).faultInfo = s.faultInfo := rfl

@[simp] theorem State.setLastOpcode_rnd (s : State) (w : Word) :
    (s.setLastOpcode w).rnd = s.rnd := rfl

@[simp] theorem State.setLastOpcode_inputs (s : State) (w : Word) :
    (s.setLastOpcode w).inputs = s.inputs := rfl

@[simp] theorem State.setLastOpcode_cycleNo (s : State) (w : Word) :
    (s.setLastOpcode w).cycleNo = s.cycleNo := rfl

/-! ### advance -/

@[simp] theorem State.advance_mem (s : State) :
    (s.advance).mem = s.mem := rfl

@[simp] theorem State.advance_v (s : State) :
    (s.advance).v = s.v := rfl

@[simp] theorem State.advance_i (s : State) :
    (s.advance).i = s.i := rfl

@[simp] theorem State.advance_pc (s : State) :
    (s.advance).pc = s.pc + 2#16 := rfl

@[simp] theorem State.advance_stack (s : State) :
    (s.advance).stack = s.stack := rfl

@[simp] theorem State.advance_depth (s : State) :
    (s.advance).depth = s.depth := rfl

@[simp] theorem State.advance_dt (s : State) :
    (s.advance).dt = s.dt := rfl

@[simp] theorem State.advance_st (s : State) :
    (s.advance).st = s.st := rfl

@[simp] theorem State.advance_fb (s : State) :
    (s.advance).fb = s.fb := rfl

@[simp] theorem State.advance_key (s : State) :
    (s.advance).key = s.key := rfl

@[simp] theorem State.advance_drawPending (s : State) :
    (s.advance).drawPending = s.drawPending := rfl

@[simp] theorem State.advance_lastOpcode (s : State) :
    (s.advance).lastOpcode = s.lastOpcode := rfl

@[simp] theorem State.advance_halted (s : State) :
    (s.advance).halted = s.halted := rfl

@[simp] theorem State.advance_faultCause (s : State) :
    (s.advance).faultCause = s.faultCause := rfl

@[simp] theorem State.advance_faultInfo (s : State) :
    (s.advance).faultInfo = s.faultInfo := rfl

@[simp] theorem State.advance_rnd (s : State) :
    (s.advance).rnd = s.rnd := rfl

@[simp] theorem State.advance_inputs (s : State) :
    (s.advance).inputs = s.inputs := rfl

@[simp] theorem State.advance_cycleNo (s : State) :
    (s.advance).cycleNo = s.cycleNo := rfl

/-! ### latch -/

@[simp] theorem State.latch_mem (s : State) (k : BitVec 16) (r : Byte) :
    (s.latch k r).mem = s.mem := rfl

@[simp] theorem State.latch_v (s : State) (k : BitVec 16) (r : Byte) :
    (s.latch k r).v = s.v := rfl

@[simp] theorem State.latch_i (s : State) (k : BitVec 16) (r : Byte) :
    (s.latch k r).i = s.i := rfl

@[simp] theorem State.latch_pc (s : State) (k : BitVec 16) (r : Byte) :
    (s.latch k r).pc = s.pc := rfl

@[simp] theorem State.latch_stack (s : State) (k : BitVec 16) (r : Byte) :
    (s.latch k r).stack = s.stack := rfl

@[simp] theorem State.latch_depth (s : State) (k : BitVec 16) (r : Byte) :
    (s.latch k r).depth = s.depth := rfl

@[simp] theorem State.latch_dt (s : State) (k : BitVec 16) (r : Byte) :
    (s.latch k r).dt = s.dt := rfl

@[simp] theorem State.latch_st (s : State) (k : BitVec 16) (r : Byte) :
    (s.latch k r).st = s.st := rfl

@[simp] theorem State.latch_fb (s : State) (k : BitVec 16) (r : Byte) :
    (s.latch k r).fb = s.fb := rfl

@[simp] theorem State.latch_key (s : State) (k : BitVec 16) (r : Byte) :
    (s.latch k r).key = k := rfl

@[simp] theorem State.latch_drawPending (s : State) (k : BitVec 16) (r : Byte) :
    (s.latch k r).drawPending = s.drawPending := rfl

@[simp] theorem State.latch_lastOpcode (s : State) (k : BitVec 16) (r : Byte) :
    (s.latch k r).lastOpcode = s.lastOpcode := rfl

@[simp] theorem State.latch_halted (s : State) (k : BitVec 16) (r : Byte) :
    (s.latch k r).halted = s.halted := rfl

@[simp] theorem State.latch_faultCause (s : State) (k : BitVec 16) (r : Byte) :
    (s.latch k r).faultCause = s.faultCause := rfl

@[simp] theorem State.latch_faultInfo (s : State) (k : BitVec 16) (r : Byte) :
    (s.latch k r).faultInfo = s.faultInfo := rfl

@[simp] theorem State.latch_rnd (s : State) (k : BitVec 16) (r : Byte) :
    (s.latch k r).rnd = r := rfl

@[simp] theorem State.latch_inputs (s : State) (k : BitVec 16) (r : Byte) :
    (s.latch k r).inputs = s.inputs := rfl

@[simp] theorem State.latch_cycleNo (s : State) (k : BitVec 16) (r : Byte) :
    (s.latch k r).cycleNo = s.cycleNo := rfl

/-! ### tickTimers -/

@[simp] theorem State.tickTimers_mem (s : State) :
    (s.tickTimers).mem = s.mem := rfl

@[simp] theorem State.tickTimers_v (s : State) :
    (s.tickTimers).v = s.v := rfl

@[simp] theorem State.tickTimers_i (s : State) :
    (s.tickTimers).i = s.i := rfl

@[simp] theorem State.tickTimers_pc (s : State) :
    (s.tickTimers).pc = s.pc := rfl

@[simp] theorem State.tickTimers_stack (s : State) :
    (s.tickTimers).stack = s.stack := rfl

@[simp] theorem State.tickTimers_depth (s : State) :
    (s.tickTimers).depth = s.depth := rfl

@[simp] theorem State.tickTimers_dt (s : State) :
    (s.tickTimers).dt = tickDown s.dt := rfl

@[simp] theorem State.tickTimers_st (s : State) :
    (s.tickTimers).st = tickDown s.st := rfl

@[simp] theorem State.tickTimers_fb (s : State) :
    (s.tickTimers).fb = s.fb := rfl

@[simp] theorem State.tickTimers_key (s : State) :
    (s.tickTimers).key = s.key := rfl

@[simp] theorem State.tickTimers_drawPending (s : State) :
    (s.tickTimers).drawPending = s.drawPending := rfl

@[simp] theorem State.tickTimers_lastOpcode (s : State) :
    (s.tickTimers).lastOpcode = s.lastOpcode := rfl

@[simp] theorem State.tickTimers_halted (s : State) :
    (s.tickTimers).halted = s.halted := rfl

@[simp] theorem State.tickTimers_faultCause (s : State) :
    (s.tickTimers).faultCause = s.faultCause := rfl

@[simp] theorem State.tickTimers_faultInfo (s : State) :
    (s.tickTimers).faultInfo = s.faultInfo := rfl

@[simp] theorem State.tickTimers_rnd (s : State) :
    (s.tickTimers).rnd = s.rnd := rfl

@[simp] theorem State.tickTimers_inputs (s : State) :
    (s.tickTimers).inputs = s.inputs := rfl

@[simp] theorem State.tickTimers_cycleNo (s : State) :
    (s.tickTimers).cycleNo = s.cycleNo := rfl

/-! ### takeInput -/

@[simp] theorem State.takeInput_mem (s : State) :
    (s.takeInput).mem = s.mem := rfl

@[simp] theorem State.takeInput_v (s : State) :
    (s.takeInput).v = s.v := rfl

@[simp] theorem State.takeInput_i (s : State) :
    (s.takeInput).i = s.i := rfl

@[simp] theorem State.takeInput_pc (s : State) :
    (s.takeInput).pc = s.pc := rfl

@[simp] theorem State.takeInput_stack (s : State) :
    (s.takeInput).stack = s.stack := rfl

@[simp] theorem State.takeInput_depth (s : State) :
    (s.takeInput).depth = s.depth := rfl

@[simp] theorem State.takeInput_dt (s : State) :
    (s.takeInput).dt = s.dt := rfl

@[simp] theorem State.takeInput_st (s : State) :
    (s.takeInput).st = s.st := rfl

@[simp] theorem State.takeInput_fb (s : State) :
    (s.takeInput).fb = s.fb := rfl

@[simp] theorem State.takeInput_key (s : State) :
    (s.takeInput).key = s.key := rfl

@[simp] theorem State.takeInput_drawPending (s : State) :
    (s.takeInput).drawPending = s.drawPending := rfl

@[simp] theorem State.takeInput_lastOpcode (s : State) :
    (s.takeInput).lastOpcode = s.lastOpcode := rfl

@[simp] theorem State.takeInput_halted (s : State) :
    (s.takeInput).halted = s.halted := rfl

@[simp] theorem State.takeInput_faultCause (s : State) :
    (s.takeInput).faultCause = s.faultCause := rfl

@[simp] theorem State.takeInput_faultInfo (s : State) :
    (s.takeInput).faultInfo = s.faultInfo := rfl

@[simp] theorem State.takeInput_rnd (s : State) :
    (s.takeInput).rnd = s.rnd := rfl

@[simp] theorem State.takeInput_inputs (s : State) :
    (s.takeInput).inputs = s.inputs.tail := rfl

@[simp] theorem State.takeInput_cycleNo (s : State) :
    (s.takeInput).cycleNo = s.cycleNo + 1 := rfl

/-! ### fail -/

@[simp] theorem State.fail_mem (s : State) (c : FaultCause) (w : Word) :
    (s.fail c w).mem = s.mem := rfl

@[simp] theorem State.fail_v (s : State) (c : FaultCause) (w : Word) :
    (s.fail c w).v = s.v := rfl

@[simp] theorem State.fail_i (s : State) (c : FaultCause) (w : Word) :
    (s.fail c w).i = s.i := rfl

@[simp] theorem State.fail_pc (s : State) (c : FaultCause) (w : Word) :
    (s.fail c w).pc = s.pc := rfl

@[simp] theorem State.fail_stack (s : State) (c : FaultCause) (w : Word) :
    (s.fail c w).stack = s.stack := rfl

@[simp] theorem State.fail_depth (s : State) (c : FaultCause) (w : Word) :
    (s.fail c w).depth = s.depth := rfl

@[simp] theorem State.fail_dt (s : State) (c : FaultCause) (w : Word) :
    (s.fail c w).dt = s.dt := rfl

@[simp] theorem State.fail_st (s : State) (c : FaultCause) (w : Word) :
    (s.fail c w).st = s.st := rfl

@[simp] theorem State.fail_fb (s : State) (c : FaultCause) (w : Word) :
    (s.fail c w).fb = s.fb := rfl

@[simp] theorem State.fail_key (s : State) (c : FaultCause) (w : Word) :
    (s.fail c w).key = s.key := rfl

@[simp] theorem State.fail_drawPending (s : State) (c : FaultCause) (w : Word) :
    (s.fail c w).drawPending = s.drawPending := rfl

@[simp] theorem State.fail_lastOpcode (s : State) (c : FaultCause) (w : Word) :
    (s.fail c w).lastOpcode = s.lastOpcode := rfl

@[simp] theorem State.fail_halted (s : State) (c : FaultCause) (w : Word) :
    (s.fail c w).halted = true := rfl

@[simp] theorem State.fail_faultCause (s : State) (c : FaultCause) (w : Word) :
    (s.fail c w).faultCause = c := rfl

@[simp] theorem State.fail_faultInfo (s : State) (c : FaultCause) (w : Word) :
    (s.fail c w).faultInfo = w := rfl

@[simp] theorem State.fail_rnd (s : State) (c : FaultCause) (w : Word) :
    (s.fail c w).rnd = s.rnd := rfl

@[simp] theorem State.fail_inputs (s : State) (c : FaultCause) (w : Word) :
    (s.fail c w).inputs = s.inputs := rfl

@[simp] theorem State.fail_cycleNo (s : State) (c : FaultCause) (w : Word) :
    (s.fail c w).cycleNo = s.cycleNo := rfl

/-! ### skipIf -/

@[simp] theorem State.skipIf_mem (s : State) (c : Bool) : (s.skipIf c).mem = s.mem := by cases c <;> rfl

@[simp] theorem State.skipIf_v (s : State) (c : Bool) : (s.skipIf c).v = s.v := by cases c <;> rfl

@[simp] theorem State.skipIf_i (s : State) (c : Bool) : (s.skipIf c).i = s.i := by cases c <;> rfl

@[simp] theorem State.skipIf_pc (s : State) (c : Bool) :
    (s.skipIf c).pc = s.pc + (if c then 4#16 else 2#16) := by cases c <;> rfl

@[simp] theorem State.skipIf_stack (s : State) (c : Bool) : (s.skipIf c).stack = s.stack := by cases c <;> rfl

@[simp] theorem State.skipIf_depth (s : State) (c : Bool) : (s.skipIf c).depth = s.depth := by cases c <;> rfl

@[simp] theorem State.skipIf_dt (s : State) (c : Bool) : (s.skipIf c).dt = s.dt := by cases c <;> rfl

@[simp] theorem State.skipIf_st (s : State) (c : Bool) : (s.skipIf c).st = s.st := by cases c <;> rfl

@[simp] theorem State.skipIf_fb (s : State) (c : Bool) : (s.skipIf c).fb = s.fb := by cases c <;> rfl

@[simp] theorem State.skipIf_key (s : State) (c : Bool) : (s.skipIf c).key = s.key := by cases c <;> rfl

@[simp] theorem State.skipIf_drawPending (s : State) (c : Bool) : (s.skipIf c).drawPending = s.drawPending := by cases c <;> rfl

@[simp] theorem State.skipIf_lastOpcode (s : State) (c : Bool) : (s.skipIf c).lastOpcode = s.lastOpcode := by cases c <;> rfl

@[simp] theorem State.skipIf_halted (s : State) (c : Bool) : (s.skipIf c).halted = s.halted := by cases c <;> rfl

@[simp] theorem State.skipIf_faultCause (s : State) (c : Bool) : (s.skipIf c).faultCause = s.faultCause := by cases c <;> rfl

@[simp] theorem State.skipIf_faultInfo (s : State) (c : Bool) : (s.skipIf c).faultInfo = s.faultInfo := by cases c <;> rfl

@[simp] theorem State.skipIf_rnd (s : State) (c : Bool) : (s.skipIf c).rnd = s.rnd := by cases c <;> rfl

@[simp] theorem State.skipIf_inputs (s : State) (c : Bool) : (s.skipIf c).inputs = s.inputs := by cases c <;> rfl

@[simp] theorem State.skipIf_cycleNo (s : State) (c : Bool) : (s.skipIf c).cycleNo = s.cycleNo := by cases c <;> rfl

/-! ### writeBytes -/

@[simp] theorem State.writeBytes_v (s : State) (a : Nat) (l : List Byte) :
    (s.writeBytes a l).v = s.v := by
  induction l generalizing s a with
  | nil => rfl
  | cons b rest ih => simp [State.writeBytes, ih]

@[simp] theorem State.writeBytes_i (s : State) (a : Nat) (l : List Byte) :
    (s.writeBytes a l).i = s.i := by
  induction l generalizing s a with
  | nil => rfl
  | cons b rest ih => simp [State.writeBytes, ih]

@[simp] theorem State.writeBytes_pc (s : State) (a : Nat) (l : List Byte) :
    (s.writeBytes a l).pc = s.pc := by
  induction l generalizing s a with
  | nil => rfl
  | cons b rest ih => simp [State.writeBytes, ih]

@[simp] theorem State.writeBytes_stack (s : State) (a : Nat) (l : List Byte) :
    (s.writeBytes a l).stack = s.stack := by
  induction l generalizing s a with
  | nil => rfl
  | cons b rest ih => simp [State.writeBytes, ih]

@[simp] theorem State.writeBytes_depth (s : State) (a : Nat) (l : List Byte) :
    (s.writeBytes a l).depth = s.depth := by
  induction l generalizing s a with
  | nil => rfl
  | cons b rest ih => simp [State.writeBytes, ih]

@[simp] theorem State.writeBytes_dt (s : State) (a : Nat) (l : List Byte) :
    (s.writeBytes a l).dt = s.dt := by
  induction l generalizing s a with
  | nil => rfl
  | cons b rest ih => simp [State.writeBytes, ih]

@[simp] theorem State.writeBytes_st (s : State) (a : Nat) (l : List Byte) :
    (s.writeBytes a l).st = s.st := by
  induction l generalizing s a with
  | nil => rfl
  | cons b rest ih => simp [State.writeBytes, ih]

@[simp] theorem State.writeBytes_fb (s : State) (a : Nat) (l : List Byte) :
    (s.writeBytes a l).fb = s.fb := by
  induction l generalizing s a with
  | nil => rfl
  | cons b rest ih => simp [State.writeBytes, ih]

@[simp] theorem State.writeBytes_key (s : State) (a : Nat) (l : List Byte) :
    (s.writeBytes a l).key = s.key := by
  induction l generalizing s a with
  | nil => rfl
  | cons b rest ih => simp [State.writeBytes, ih]

@[simp] theorem State.writeBytes_drawPending (s : State) (a : Nat) (l : List Byte) :
    (s.writeBytes a l).drawPending = s.drawPending := by
  induction l generalizing s a with
  | nil => rfl
  | cons b rest ih => simp [State.writeBytes, ih]

@[simp] theorem State.writeBytes_lastOpcode (s : State) (a : Nat) (l : List Byte) :
    (s.writeBytes a l).lastOpcode = s.lastOpcode := by
  induction l generalizing s a with
  | nil => rfl
  | cons b rest ih => simp [State.writeBytes, ih]

@[simp] theorem State.writeBytes_halted (s : State) (a : Nat) (l : List Byte) :
    (s.writeBytes a l).halted = s.halted := by
  induction l generalizing s a with
  | nil => rfl
  | cons b rest ih => simp [State.writeBytes, ih]

@[simp] theorem State.writeBytes_faultCause (s : State) (a : Nat) (l : List Byte) :
    (s.writeBytes a l).faultCause = s.faultCause := by
  induction l generalizing s a with
  | nil => rfl
  | cons b rest ih => simp [State.writeBytes, ih]

@[simp] theorem State.writeBytes_faultInfo (s : State) (a : Nat) (l : List Byte) :
    (s.writeBytes a l).faultInfo = s.faultInfo := by
  induction l generalizing s a with
  | nil => rfl
  | cons b rest ih => simp [State.writeBytes, ih]

@[simp] theorem State.writeBytes_rnd (s : State) (a : Nat) (l : List Byte) :
    (s.writeBytes a l).rnd = s.rnd := by
  induction l generalizing s a with
  | nil => rfl
  | cons b rest ih => simp [State.writeBytes, ih]

@[simp] theorem State.writeBytes_inputs (s : State) (a : Nat) (l : List Byte) :
    (s.writeBytes a l).inputs = s.inputs := by
  induction l generalizing s a with
  | nil => rfl
  | cons b rest ih => simp [State.writeBytes, ih]

@[simp] theorem State.writeBytes_cycleNo (s : State) (a : Nat) (l : List Byte) :
    (s.writeBytes a l).cycleNo = s.cycleNo := by
  induction l generalizing s a with
  | nil => rfl
  | cons b rest ih => simp [State.writeBytes, ih]

/-! ### loadRegs -/

@[simp] theorem State.loadRegs_mem (s : State) (n : Nat) : (s.loadRegs n).mem = s.mem := by
  induction n with
  | zero => rfl
  | succ n ih => simp [State.loadRegs, ih]

@[simp] theorem State.loadRegs_i (s : State) (n : Nat) : (s.loadRegs n).i = s.i := by
  induction n with
  | zero => rfl
  | succ n ih => simp [State.loadRegs, ih]

@[simp] theorem State.loadRegs_pc (s : State) (n : Nat) : (s.loadRegs n).pc = s.pc := by
  induction n with
  | zero => rfl
  | succ n ih => simp [State.loadRegs, ih]

@[simp] theorem State.loadRegs_stack (s : State) (n : Nat) : (s.loadRegs n).stack = s.stack := by
  induction n with
  | zero => rfl
  | succ n ih => simp [State.loadRegs, ih]

@[simp] theorem State.loadRegs_depth (s : State) (n : Nat) : (s.loadRegs n).depth = s.depth := by
  induction n with
  | zero => rfl
  | succ n ih => simp [State.loadRegs, ih]

@[simp] theorem State.loadRegs_dt (s : State) (n : Nat) : (s.loadRegs n).dt = s.dt := by
  induction n with
  | zero => rfl
  | succ n ih => simp [State.loadRegs, ih]

@[simp] theorem State.loadRegs_st (s : State) (n : Nat) : (s.loadRegs n).st = s.st := by
  induction n with
  | zero => rfl
  | succ n ih => simp [State.loadRegs, ih]

@[simp] theorem State.loadRegs_fb (s : State) (n : Nat) : (s.loadRegs n).fb = s.fb := by
  induction n with
  | zero => rfl
  | succ n ih => simp [State.loadRegs, ih]

@[simp] theorem State.loadRegs_key (s : State) (n : Nat) : (s.loadRegs n).key = s.key := by
  induction n with
  | zero => rfl
  | succ n ih => simp [State.loadRegs, ih]

@[simp] theorem State.loadRegs_drawPending (s : State) (n : Nat) : (s.loadRegs n).drawPending = s.drawPending := by
  induction n with
  | zero => rfl
  | succ n ih => simp [State.loadRegs, ih]

@[simp] theorem State.loadRegs_lastOpcode (s : State) (n : Nat) : (s.loadRegs n).lastOpcode = s.lastOpcode := by
  induction n with
  | zero => rfl
  | succ n ih => simp [State.loadRegs, ih]

@[simp] theorem State.loadRegs_halted (s : State) (n : Nat) : (s.loadRegs n).halted = s.halted := by
  induction n with
  | zero => rfl
  | succ n ih => simp [State.loadRegs, ih]

@[simp] theorem State.loadRegs_faultCause (s : State) (n : Nat) : (s.loadRegs n).faultCause = s.faultCause := by
  induction n with
  | zero => rfl
  | succ n ih => simp [State.loadRegs, ih]

@[simp] theorem State.loadRegs_faultInfo (s : State) (n : Nat) : (s.loadRegs n).faultInfo = s.faultInfo := by
  induction n with
  | zero => rfl
  | succ n ih => simp [State.loadRegs, ih]

@[simp] theorem State.loadRegs_rnd (s : State) (n : Nat) : (s.loadRegs n).rnd = s.rnd := by
  induction n with
  | zero => rfl
  | succ n ih => simp [State.loadRegs, ih]

@[simp] theorem State.loadRegs_inputs (s : State) (n : Nat) : (s.loadRegs n).inputs = s.inputs := by
  induction n with
  | zero => rfl
  | succ n ih => simp [State.loadRegs, ih]

@[simp] theorem State.loadRegs_cycleNo (s : State) (n : Nat) : (s.loadRegs n).cycleNo = s.cycleNo := by
  induction n with
  | zero => rfl
  | succ n ih => simp [State.loadRegs, ih]

end Sys2Proof.Machine
end

