-- ==== Sys2Proof/Laws/Memory.lean ====
section
/-!
SUPPORT. Memory: a read after a write (spec/20_memory.md R50, R51), and every operation keeps the canonical form.
-/

namespace Sys2Proof.Machine

@[simp] theorem Memory.read_nil (a : Nat) : Memory.read [] a = Memory.initial a := rfl

theorem Memory.read_cons (k : Nat) (b : Byte) (m : Memory) (a : Nat) :
    Memory.read ((k, b) :: m) a = if a = k then b else Memory.read m a := rfl

theorem Memory.read_erase_self (m : Memory) (a : Nat) : Memory.read (m.erase a) a = Memory.initial a := by
  induction m with
  | nil => rfl
  | cons c m ih =>
    obtain ⟨k, b⟩ := c
    by_cases h : k = a
    · simpa [Memory.erase, h] using ih
    · have hk : ¬ a = k := fun e => h e.symm
      simpa [Memory.erase, h, hk, Memory.read_cons] using ih

theorem Memory.read_erase_ne (m : Memory) (a a' : Nat) (h : a' ≠ a) :
    Memory.read (m.erase a) a' = Memory.read m a' := by
  induction m with
  | nil => rfl
  | cons c m ih =>
    obtain ⟨k, b⟩ := c
    by_cases hk : k = a
    · subst hk
      simpa [Memory.erase, Memory.read_cons, h] using ih
    · by_cases ha : a' = k <;> simp_all [Memory.erase, Memory.read_cons]

theorem Memory.read_insertCell_ne (a : Nat) (b : Byte) (m : Memory) (a' : Nat) (h : a' ≠ a) :
    Memory.read (Memory.insertCell a b m) a' = Memory.read m a' := by
  induction m with
  | nil => simp [Memory.insertCell, Memory.read_cons, h]
  | cons c m ih =>
    obtain ⟨k, x⟩ := c
    by_cases hk : a < k
    · simp [Memory.insertCell, hk, Memory.read_cons, h]
    · simp [Memory.insertCell, hk, Memory.read_cons, ih]

theorem Memory.read_insertCell_self (a : Nat) (b : Byte) (m : Memory) (h : ∀ c ∈ m, c.1 ≠ a) :
    Memory.read (Memory.insertCell a b m) a = b := by
  induction m with
  | nil => simp [Memory.insertCell, Memory.read_cons]
  | cons c m ih =>
    obtain ⟨k, x⟩ := c
    have hka : ¬ a = k := fun e => h (k, x) (by simp) e.symm
    by_cases hk : a < k
    · simp [Memory.insertCell, hk, Memory.read_cons]
    · simpa [Memory.insertCell, hk, Memory.read_cons, hka] using ih fun c hc => h c (by simp [hc])

theorem Memory.mem_erase {m : Memory} {a : Nat} {c : Host.Cell} (h : c ∈ m.erase a) : c ∈ m ∧ c.1 ≠ a := by
  simpa [Memory.erase] using h

/-- A read after a write: the byte written at its own address when that address exists, else what was there. -/
theorem Memory.read_write (m : Memory) (a : Nat) (b : Byte) (a' : Nat) :
    Memory.read (m.write a b) a' = if a' = a ∧ a < Config.memSize then b else Memory.read m a' := by
  unfold Memory.write
  by_cases hs : a < Config.memSize
  · by_cases ha : a' = a
    · subst ha
      by_cases hb : b = Memory.initial a'
      · simp [hs, hb, Memory.read_erase_self]
      · simpa [hs, hb] using Memory.read_insertCell_self a' b _ fun c hc => (Memory.mem_erase hc).2
    · by_cases hb : b = Memory.initial a <;>
        simp [hs, hb, ha, Memory.read_erase_ne, Memory.read_insertCell_ne]
  · simp [hs]

theorem Memory.mem_insertCell {a : Nat} {b : Byte} {m : Memory} {c : Host.Cell} :
    c ∈ Memory.insertCell a b m ↔ c = (a, b) ∨ c ∈ m := by
  induction m with
  | nil => simp [Memory.insertCell]
  | cons d m ih =>
    obtain ⟨k, x⟩ := d
    by_cases hk : a < k
    · simp [Memory.insertCell, hk]
    · simp [Memory.insertCell, hk, ih, or_left_comm]

theorem Memory.pairwise_insertCell {a : Nat} {b : Byte} {m : Memory} (hm : m.Pairwise (fun c d => c.1 < d.1))
    (ha : ∀ c ∈ m, c.1 ≠ a) : (Memory.insertCell a b m).Pairwise (fun c d => c.1 < d.1) := by
  induction m with
  | nil => simp [Memory.insertCell]
  | cons d m ih =>
    obtain ⟨k, x⟩ := d
    obtain ⟨hd, hm'⟩ := List.pairwise_cons.1 hm
    have hne : k ≠ a := ha (k, x) (by simp)
    by_cases hk : a < k
    · simp only [Memory.insertCell, hk, if_true, List.pairwise_cons]
      refine ⟨fun c hc => ?_, hd, hm'⟩
      rcases List.mem_cons.1 hc with rfl | hc
      · exact hk
      · exact lt_trans hk (hd c hc)
    · simp only [Memory.insertCell, hk, if_false, List.pairwise_cons]
      refine ⟨fun c hc => ?_, ih hm' fun c hc => ha c (by simp [hc])⟩
      rcases Memory.mem_insertCell.1 hc with rfl | hc
      · show k < a
        omega
      · exact hd c hc

theorem Memory.wf_erase {m : Memory} (hm : m.wf) (a : Nat) : (m.erase a).wf :=
  ⟨hm.1.filter _, fun c hc => hm.2 c (Memory.mem_erase hc).1⟩

/-- A write keeps the canonical form. -/
theorem Memory.wf_write {m : Memory} (hm : m.wf) (a : Nat) (b : Byte) : (m.write a b).wf := by
  unfold Memory.write
  split
  · rename_i hs
    split
    · exact Memory.wf_erase hm a
    · rename_i hb
      refine ⟨Memory.pairwise_insertCell (Memory.wf_erase hm a).1 fun c hc => (Memory.mem_erase hc).2, fun c hc => ?_⟩
      rcases Memory.mem_insertCell.1 hc with rfl | hc
      · exact ⟨hs, hb⟩
      · exact (Memory.wf_erase hm a).2 c hc
  · exact hm

theorem Memory.wf_reset : State.reset.mem.wf := by decide

/-- Reset leaves `FONT` at 0x000 to 0x04F and `MEM_INIT` above (R26). -/
theorem Memory.initial_high {a : Nat} (h : 80 ≤ a) : Memory.initial a = 0#8 := by
  have : Config.font.length ≤ a := by simpa [Config.font, Config.fontLow, Config.fontHigh] using h
  rw [Memory.initial, List.getD_eq_default _ _ this]
  rfl

/-- Reading depends on memory alone. -/
theorem State.readByte_congr {s t : State} (h : t.mem = s.mem) (a : Nat) : t.readByte a = s.readByte a := by
  simp [State.readByte, h]

theorem State.readByte_writeByte (s : State) (a : Nat) (b : Byte) (a' : Nat) :
    (s.writeByte a b).readByte a' = if a' = a ∧ a < Config.memSize then b else s.readByte a' :=
  Memory.read_write s.mem a b a'

/-- A read after a store of consecutive bytes. -/
theorem State.readByte_writeBytes (l : List Byte) (s : State) (a a' : Nat) (h : a + l.length ≤ Config.memSize) :
    (s.writeBytes a l).readByte a' =
      if a ≤ a' ∧ a' < a + l.length then l.getD (a' - a) 0#8 else s.readByte a' := by
  induction l generalizing s a with
  | nil =>
    have : ¬ (a ≤ a' ∧ a' < a) := by omega
    simp [State.writeBytes, this]
  | cons b rest ih =>
    simp only [List.length_cons] at h
    rw [State.writeBytes, ih _ _ (by omega), State.readByte_writeByte]
    by_cases h1 : a + 1 ≤ a' ∧ a' < a + 1 + rest.length
    · have h2 : a ≤ a' ∧ a' < a + (b :: rest).length := by simp only [List.length_cons]; omega
      obtain ⟨n, hn⟩ : ∃ n, a' - a = n + 1 := ⟨a' - a - 1, by omega⟩
      have hn' : a' - (a + 1) = n := by omega
      rw [if_pos h1, if_pos h2, hn, hn', List.getD_cons_succ]
    · rw [if_neg h1]
      by_cases h3 : a' = a
      · subst h3
        have : a' < Config.memSize := by omega
        simp [this]
      · have h2 : ¬ (a ≤ a' ∧ a' < a + (b :: rest).length) := by simp only [List.length_cons]; omega
        rw [if_neg h2, if_neg (by simp [h3])]

theorem State.wf_writeByte {s : State} (hm : s.mem.wf) (a : Nat) (b : Byte) : (s.writeByte a b).mem.wf :=
  Memory.wf_write hm a b

/-- A store of consecutive bytes keeps the canonical form. -/
theorem State.wf_writeBytes {s : State} (hm : s.mem.wf) (a : Nat) (l : List Byte) : (s.writeBytes a l).mem.wf := by
  induction l generalizing s a with
  | nil => exact hm
  | cons b rest ih => exact ih (State.wf_writeByte hm a b) (a + 1)

end Sys2Proof.Machine
end

