-- ==== Sys2Proof/Laws/Registers.lean ====
section
/-!
SUPPORT. General registers: a read after a write (spec/10_state.md R11), the two writes of a flag instruction (R13), and
the register loops (spec/43_index_memory.md R164, R165).
-/

namespace Sys2Proof.Machine

/-- Reading a register depends on `V` alone. -/
theorem State.getV_congr {s t : State} (h : t.v = s.v) (x : RegIdx) : t.getV x = s.getV x := by
  simp [State.getV, h]

/-- A register read after a register write. -/
theorem State.getV_setV (s : State) (x : RegIdx) (b : Byte) (y : RegIdx) :
    (s.setV x b).getV y = if y = x then b else s.getV y := by
  by_cases h : y = x
  · subst h; simp [State.getV]
  · have hn : x.toNat ≠ y.toNat := fun e => h (BitVec.eq_of_toNat_eq e.symm)
    simp [State.getV, h, hn]

@[simp] theorem State.getV_setV_self (s : State) (x : RegIdx) (b : Byte) : (s.setV x b).getV x = b := by
  simp [State.getV_setV]

@[simp] theorem State.getV_advance (s : State) (x : RegIdx) : s.advance.getV x = s.getV x := rfl

@[simp] theorem State.getV_setPc (s : State) (a : Word) (x : RegIdx) : (s.setPc a).getV x = s.getV x := rfl

@[simp] theorem State.getV_setFb (s : State) (f : Framebuffer) (x : RegIdx) : (s.setFb f).getV x = s.getV x := rfl

@[simp] theorem State.getV_setDrawPending (s : State) (b : Bool) (x : RegIdx) :
    (s.setDrawPending b).getV x = s.getV x := rfl

/-- After a flag-writing instruction: VF holds the flag, `Vx` the result unless it is VF (R13). -/
theorem State.getV_setFlagged (s : State) (x : RegIdx) (r : Byte) (f : Bool) (y : RegIdx) :
    (s.setFlagged x r f).getV y = if y = VF then flagByte f else if y = x then r else s.getV y := by
  simp [State.setFlagged, State.getV_setV]

theorem flagByte_toNat (f : Bool) : (flagByte f).toNat = if f then 1 else 0 := by cases f <;> rfl

/-- The register file after loading `V[0]` to `V[n-1]` from `I` (R165). -/
theorem State.getV_loadRegs (s : State) (n : Nat) (hn : n ≤ 16) (y : RegIdx) :
    (s.loadRegs n).getV y = if y.toNat < n then s.readByte (s.i.toNat + y.toNat) else s.getV y := by
  induction n with
  | zero => simp [State.loadRegs]
  | succ n ih =>
    rw [State.loadRegs, State.getV_setV, ih (by omega)]
    have hto : (BitVec.ofNat 4 n).toNat = n := by simp; omega
    by_cases h : y = BitVec.ofNat 4 n
    · have hy : y.toNat = n := by rw [h, hto]
      rw [if_pos h, if_pos (by omega), hy, State.ea]
    · have hy : y.toNat ≠ n := fun e => h (BitVec.eq_of_toNat_eq (by rw [e, hto]))
      by_cases h2 : y.toNat < n
      · rw [if_neg h, if_pos h2, if_pos (by omega)]
      · rw [if_neg h, if_neg h2, if_neg (by omega)]

@[simp] theorem State.firstRegs_length (s : State) (n : Nat) : (s.firstRegs n).length = n := by
  simp [State.firstRegs]

/-- The k-th byte REG_DUMP stores is `V[k]` (R164). -/
theorem State.firstRegs_getD (s : State) (n k : Nat) (hk : k < n) :
    (s.firstRegs n).getD k 0#8 = s.getV (BitVec.ofNat 4 k) := by
  simp [State.firstRegs, List.getD_eq_getElem?_getD, hk]

end Sys2Proof.Machine
end

