-- ==== Sys2Proof/Laws/Display.lean ====
section
/-!
SUPPORT. DRAW: complementing one pixel, what a list of distinct places does to the framebuffer and the collision flag,
and that one sprite never visits a pixel twice (spec/44_display.md R181).
-/

namespace Sys2Proof.Machine

theorem Framebuffer.pixel_clear (x : Fin 64) (y : Fin 32) : Framebuffer.pixel Framebuffer.clear x y = false := by
  simp [Framebuffer.pixel, Framebuffer.clear]

/-- A pixel after one pixel was complemented. -/
theorem Framebuffer.pixel_flip (f : Framebuffer) (x x' : Fin 64) (y y' : Fin 32) :
    Framebuffer.pixel (Framebuffer.flip f x y) x' y' =
      if x' = x ∧ y' = y then !Framebuffer.pixel f x y else Framebuffer.pixel f x' y' := by
  by_cases hy : y' = y
  · subst hy
    by_cases hx : x' = x
    · subst hx; simp [Framebuffer.pixel, Framebuffer.flip]
    · have : x.val ≠ x'.val := fun e => hx (Fin.ext e.symm)
      simp [Framebuffer.pixel, Framebuffer.flip, hx, this]
  · have : y.val ≠ y'.val := fun e => hy (Fin.ext e.symm)
    simp [Framebuffer.pixel, Framebuffer.flip, hy, this]

/-- Two framebuffers with the same pixels are equal. -/
theorem Framebuffer.ext_pixel {f g : Framebuffer} (h : ∀ x y, Framebuffer.pixel f x y = Framebuffer.pixel g x y) :
    f = g := by
  apply Vector.ext
  intro i hi
  apply Vector.ext
  intro j hj
  exact h ⟨j, hj⟩ ⟨i, hi⟩

theorem foldl_drawPixel (ps : List (Fin 64 × Fin 32)) (hn : ps.Nodup) (acc : Framebuffer × Bool) :
    (∀ x y, Framebuffer.pixel (ps.foldl drawPixel acc).1 x y =
      if (x, y) ∈ ps then !Framebuffer.pixel acc.1 x y else Framebuffer.pixel acc.1 x y) ∧
    (ps.foldl drawPixel acc).2 = (acc.2 || ps.any fun p => Framebuffer.pixel acc.1 p.1 p.2) := by
  induction ps generalizing acc with
  | nil => simp
  | cons p ps ih =>
    obtain ⟨hp, hps⟩ := List.nodup_cons.1 hn
    obtain ⟨ih1, ih2⟩ := ih hps (drawPixel acc p)
    have hpix : ∀ x y, Framebuffer.pixel (drawPixel acc p).1 x y =
        if x = p.1 ∧ y = p.2 then !Framebuffer.pixel acc.1 p.1 p.2 else Framebuffer.pixel acc.1 x y :=
      fun x y => Framebuffer.pixel_flip acc.1 p.1 x p.2 y
    refine ⟨fun x y => ?_, ?_⟩
    · rw [List.foldl_cons, ih1, hpix]
      by_cases h : (x, y) = p
      · subst h; simp [hp]
      · have h' : ¬ (x = p.1 ∧ y = p.2) := fun e => h (Prod.ext e.1 e.2)
        simp [h, h']
    · rw [List.foldl_cons, ih2]
      have : (ps.any fun q => Framebuffer.pixel (drawPixel acc p).1 q.1 q.2) =
          ps.any fun q => Framebuffer.pixel acc.1 q.1 q.2 := by
        rw [Bool.eq_iff_iff, List.any_eq_true, List.any_eq_true]
        refine exists_congr fun q => and_congr_right fun hq => ?_
        have : ¬ (q.1 = p.1 ∧ q.2 = p.2) := fun e => hp (Prod.ext e.1 e.2 ▸ hq)
        rw [hpix, if_neg this]
      rw [this]
      simp [drawPixel, Bool.or_assoc]

/-- A pixel after drawing distinct places: complemented when it is one of them. -/
theorem pixel_drawPlaces {ps : List (Fin 64 × Fin 32)} (hn : ps.Nodup) (f : Framebuffer) (x : Fin 64) (y : Fin 32) :
    Framebuffer.pixel (drawPlaces f ps).1 x y =
      if (x, y) ∈ ps then !Framebuffer.pixel f x y else Framebuffer.pixel f x y :=
  (foldl_drawPixel ps hn (f, false)).1 x y

/-- The collision flag of drawing distinct places: some place was on before. -/
theorem collision_drawPlaces {ps : List (Fin 64 × Fin 32)} (hn : ps.Nodup) (f : Framebuffer) :
    (drawPlaces f ps).2 = true ↔ ∃ p ∈ ps, Framebuffer.pixel f p.1 p.2 = true := by
  rw [drawPlaces, (foldl_drawPixel ps hn (f, false)).2]
  simp

/-- The places of a sprite: those of its 1 bits, bit 7 leftmost, each coordinate wrapped (R181, R183). -/
theorem State.mem_spritePlaces (s : State) (x0 y0 n : Nat) (p : Fin 64 × Fin 32) :
    p ∈ s.spritePlaces x0 y0 n ↔
      ∃ r < n, ∃ c < 8, (s.readByte (s.i.toNat + r)).getLsbD (7 - c) = true ∧
        p.1.val = (x0 + c) % 64 ∧ p.2.val = (y0 + r) % 32 := by
  obtain ⟨px, py⟩ := p
  simp only [State.spritePlaces, spriteRow, spritePlace, State.ea, List.mem_flatMap, List.mem_range, List.mem_map,
    List.mem_filter, Prod.mk.injEq, Fin.ext_iff, Fin.val_ofNat]
  constructor
  · rintro ⟨r, hr, c, ⟨hc, hb⟩, h1, h2⟩
    exact ⟨r, hr, c, hc, hb, h1.symm, h2.symm⟩
  · rintro ⟨r, hr, c, hc, hb, h1, h2⟩
    exact ⟨r, hr, c, ⟨hc, hb⟩, h1.symm, h2.symm⟩

/-- One sprite visits no pixel twice: 8 columns are fewer than 64 and at most 15 rows fewer than 32 (R181). -/
theorem State.nodup_spritePlaces (s : State) (x0 y0 n : Nat) (hn : n ≤ 32) : (s.spritePlaces x0 y0 n).Nodup := by
  rw [State.spritePlaces, List.nodup_flatMap]
  constructor
  · intro r _
    refine (List.nodup_map_iff_inj_on (List.nodup_range.filter _)).2 fun c hc d hd h => ?_
    have hc8 : c < 8 := List.mem_range.1 (List.mem_filter.1 hc).1
    have hd8 : d < 8 := List.mem_range.1 (List.mem_filter.1 hd).1
    have := congrArg (fun q => (Prod.fst q).val) h
    simp only [spritePlace, Fin.val_ofNat] at this
    omega
  · refine List.Pairwise.imp_of_mem ?_ (List.nodup_range (n := n))
    intro r q hr hq hne p hp hp'
    obtain ⟨c, _, rfl⟩ := List.mem_map.1 hp
    obtain ⟨d, _, hd⟩ := List.mem_map.1 hp'
    have hr' := List.mem_range.1 hr
    have hq' := List.mem_range.1 hq
    have := congrArg (fun z => (Prod.snd z).val) hd
    simp only [spritePlace, Fin.val_ofNat] at this
    omega

end Sys2Proof.Machine
end

