-- ==== Sys2Proof/Laws/Ops.lean ====
section
/-!
SUPPORT. What each shared operation can do, said once: range-checked accesses, the stack, the key operand, the key scan,
fetch, and the cases of a cycle and of a step.
-/

namespace Sys2Proof.Machine

theorem raise_eq (c : FaultCause) (w : Word) (s : State) : raise c w s = .next (s.fail c w) := rfl

/-- The range check as arithmetic (R46, R47). -/
theorem State.rangeOk_iff (s : State) (n : Nat) : s.rangeOk n = true ↔ n = 0 ∨ s.i.toNat + n ≤ 4096 := by
  simp only [State.rangeOk, Bool.or_eq_true, beq_iff_eq, decide_eq_true_eq]
  rfl

/-- A range-checked access either gives the state it was handed, or raises MEM_BOUNDS (R48). -/
theorem State.withRange_ok {s t : State} {n : Nat} (h : s.rangeOk n = true) : s.withRange n t = .next t := by
  simp [State.withRange, h]

theorem State.withRange_bad {s t : State} {n : Nat} (h : s.rangeOk n = false) :
    s.withRange n t = .next (s.fail .memBounds s.boundsInfo) := by
  simp [State.withRange, h, raise]

theorem State.withRange_next {s t u : State} {n : Nat} (h : s.withRange n t = .next u) :
    (s.rangeOk n = true ∧ u = t) ∨ (s.rangeOk n = false ∧ u = s.fail .memBounds s.boundsInfo) := by
  cases hr : s.rangeOk n
  · exact .inr ⟨rfl, by rw [State.withRange_bad hr] at h; exact (Host.Outcome.next.inj h).symm⟩
  · exact .inl ⟨rfl, by rw [State.withRange_ok hr] at h; exact (Host.Outcome.next.inj h).symm⟩

/-- `fault_info` of MEM_BOUNDS is `max(I, 0x1000)` (R214). -/
theorem State.boundsInfo_toNat (s : State) : s.boundsInfo.toNat = max s.i.toNat 0x1000 := by
  unfold State.boundsInfo
  split
  · simp; omega
  · omega

/-- A push succeeds exactly when fewer than sixteen entries are live. -/
theorem State.push_some {s : State} (h : s.depth.val < 16) (w : Word) :
    s.push w = some { s with stack := s.stack.set s.depth.val w h, depth := ⟨s.depth.val + 1, by omega⟩ } := by
  simp [State.push, h]

theorem State.push_none {s : State} (h : s.depth.val = 16) (w : Word) : s.push w = none := by
  simp [State.push, h]

/-- A pop succeeds exactly when an entry is live, and clears nothing. -/
theorem State.pop_some {s : State} (h : 0 < s.depth.val) :
    s.pop = some (s.stack[s.depth.val - 1]'(by have := s.depth.isLt; omega),
      { s with depth := ⟨s.depth.val - 1, by have := s.depth.isLt; omega⟩ }) := by
  simp [State.pop, h]

theorem State.pop_none {s : State} (h : s.depth.val = 0) : s.pop = none := by
  simp [State.pop, h]

theorem State.keyNamed_some {s : State} {x : RegIdx} (h : (s.getV x).toNat ≤ 15) :
    s.keyNamed x = some (s.key.getLsbD (s.getV x).toNat) := by
  simp [State.keyNamed, h]

theorem State.keyNamed_none {s : State} {x : RegIdx} (h : 15 < (s.getV x).toNat) : s.keyNamed x = none := by
  simp [State.keyNamed, h]

/-- The key scan finds the least key that is down (R192). -/
theorem leastKey_some {key : BitVec 16} {k : Nat} :
    leastKey key = some k ↔ k < 16 ∧ key.getLsbD k = true ∧ ∀ j < k, key.getLsbD j = false := by
  unfold leastKey
  rw [List.find?_range_eq_some]
  constructor
  · rintro ⟨h1, h2, h3⟩
    exact ⟨List.mem_range.1 h2, h1, fun j hj => by simpa using h3 j hj⟩
  · rintro ⟨h1, h2, h3⟩
    exact ⟨h2, List.mem_range.2 h1, fun j hj => by simpa using h3 j hj⟩

/-- The key scan finds nothing exactly when no key is down (R192). -/
theorem leastKey_none {key : BitVec 16} : leastKey key = none ↔ key = 0#16 := by
  unfold leastKey
  rw [List.find?_range_eq_none]
  constructor
  · intro h
    apply BitVec.eq_of_getLsbD_eq
    intro i hi
    simpa using h i hi
  · rintro rfl i _
    simp

/-- Everything GET_KEY can do: take the least key that is down and advance, or leave the state (R192). -/
theorem State.takeKey_cases (s : State) (x : RegIdx) :
    (∃ k, leastKey s.key = some k ∧ s.takeKey x = (s.setV x (BitVec.ofNat 8 k)).advance) ∨
    (leastKey s.key = none ∧ s.takeKey x = s) := by
  unfold State.takeKey
  cases leastKey s.key with
  | some k => exact .inl ⟨k, rfl, rfl⟩
  | none => exact .inr ⟨rfl, rfl⟩

/-- A fetch gives the two bytes at `pc`, the lower address high, exactly when both exist (R43, R94). -/
theorem State.fetch_some {s : State} (h : s.pc.toNat + 1 ≤ 0xFFF) :
    s.fetch = some (wordOfBytes (s.readByte s.pc.toNat) (s.readByte (s.pc.toNat + 1))) := by
  have : s.pc.toNat + 1 < Config.memSize := by simp only [Config.memSize]; omega
  simp [State.fetch, this]

theorem State.fetch_none {s : State} (h : 0xFFF < s.pc.toNat + 1) : s.fetch = none := by
  have : ¬ s.pc.toNat + 1 < Config.memSize := by simp only [Config.memSize]; omega
  simp [State.fetch, this]

theorem hiByte_wordOfBytes (hi lo : Byte) : hiByte (wordOfBytes hi lo) = hi := by
  apply BitVec.eq_of_getLsbD_eq
  intro i h
  have e : (hi ++ lo).getLsbD (8 + i) = hi.getLsbD i := by
    rw [BitVec.getLsbD_append]
    simp [h]
  simpa [hiByte, wordOfBytes, h] using e

theorem loByte_wordOfBytes (hi lo : Byte) : loByte (wordOfBytes hi lo) = lo := by
  apply BitVec.eq_of_getLsbD_eq
  intro i h
  have e : (hi ++ lo).getLsbD (i) = lo.getLsbD i := by
    rw [BitVec.getLsbD_append]
    simp [h]
  simpa [loByte, wordOfBytes, h] using e

/-- Decoding a fetched word is decoding its two bytes (R96). -/
theorem decodeWord_wordOfBytes (hi lo : Byte) : decodeWord (wordOfBytes hi lo) = decode hi lo := by
  rw [decodeWord, hiByte_wordOfBytes, loByte_wordOfBytes]

/-- A program fits when it has at most 3584 bytes (R243). -/
theorem romFits_iff (bytes : List Byte) : romFits bytes = true ↔ bytes.length ≤ 3584 := by
  simp only [romFits, decide_eq_true_eq]
  rfl

/-- Everything a Cycle can do: nothing when halted; FETCH_BOUNDS; the fallback; or one handler (R90). -/
theorem cycle_cases (keys : BitVec 16) (rnd : Byte) (s : State) :
    (s.halted = true ∧ cycle keys rnd s = .next s) ∨
    (s.halted = false ∧ 0xFFF < s.pc.toNat + 1 ∧
      cycle keys rnd s = .next ((s.latch keys rnd).tickTimers.fail .fetchBounds s.pc)) ∨
    (s.halted = false ∧ s.pc.toNat + 1 ≤ 0xFFF ∧
      (∃ u, decode (s.readByte s.pc.toNat) (s.readByte (s.pc.toNat + 1)) = .error u) ∧
      cycle keys rnd s = .next ((s.latch keys rnd).tickTimers.setLastOpcode
        (wordOfBytes (s.readByte s.pc.toNat) (s.readByte (s.pc.toNat + 1))))) ∨
    (s.halted = false ∧ s.pc.toNat + 1 ≤ 0xFFF ∧
      ∃ i, decode (s.readByte s.pc.toNat) (s.readByte (s.pc.toNat + 1)) = .ok i ∧
        cycle keys rnd s = exec i ((s.latch keys rnd).tickTimers.setLastOpcode
          (wordOfBytes (s.readByte s.pc.toNat) (s.readByte (s.pc.toNat + 1))))) := by
  cases hh : s.halted
  · refine .inr ?_
    have hpc : (s.latch keys rnd).tickTimers.pc = s.pc := rfl
    have hrd : ∀ a, (s.latch keys rnd).tickTimers.readByte a = s.readByte a := fun _ => rfl
    by_cases hb : s.pc.toNat + 1 ≤ 0xFFF
    · refine .inr ?_
      have hf := State.fetch_some (s := (s.latch keys rnd).tickTimers) hb
      rw [hpc, hrd, hrd] at hf
      simp only [cycle, hh, fetchAndRun, hf, runWord, decodeWord_wordOfBytes]
      cases hd : decode (s.readByte s.pc.toNat) (s.readByte (s.pc.toNat + 1)) with
      | error u => exact .inl ⟨trivial, hb, ⟨u, rfl⟩, by simp [unmatchedCycle, Config.unmatchedAdvance]⟩
      | ok i => exact .inr ⟨trivial, hb, i, rfl, by simp⟩
    · refine .inl ⟨rfl, by omega, ?_⟩
      have hf := State.fetch_none (s := (s.latch keys rnd).tickTimers) (by rw [hpc]; omega)
      simp [cycle, hh, fetchAndRun, hf, raise]
  · exact .inl ⟨rfl, by simp [cycle, hh]⟩

/-- Everything a step can do: no successor when halted, else one Cycle with the host's arguments (R3, R91). -/
theorem step_cases (s : State) :
    (s.halted = true ∧ step s = .fault .halted) ∨
    (s.halted = false ∧ step s = cycle s.nextInput.keys s.nextInput.rnd s.takeInput) := by
  cases hh : s.halted
  · exact .inr ⟨rfl, by simp [step, hh, inputCycle]⟩
  · exact .inl ⟨rfl, by simp [step, hh, haltedStep]⟩

end Sys2Proof.Machine
end

