-- ==== Sys2Proof/Laws/HostOps.lean ====
section
/-!
SUPPORT. Sequences of host operations (spec/70_reset_and_hazards.md R245): what a run can do, runs in two parts, what a
legal sequence starts from, and the one induction over a run.
-/

namespace Sys2Proof.Machine

@[simp] theorem runHostOps_nil (s : State) : runHostOps [] s = .next (s, []) := rfl

/-- A run goes on from the state its first operation leaves. -/
theorem runHostOps_cons_next {op : HostOp} {s t u : State} {out : HostOutput} {outs : List HostOutput}
    {rest : List HostOp} (h : hostOp op s = .next (t, out)) (hr : runHostOps rest t = .next (u, outs)) :
    runHostOps (op :: rest) s = .next (u, out :: outs) := by
  simp only [runHostOps, h, hr]

/-- Everything a run of at least one operation can do when it ends in a state. -/
theorem runHostOps_cons_cases {op : HostOp} {rest : List HostOp} {s u : State} {outs : List HostOutput}
    (h : runHostOps (op :: rest) s = .next (u, outs)) :
    ∃ t out outs', hostOp op s = .next (t, out) ∧ runHostOps rest t = .next (u, outs') ∧ outs = out :: outs' := by
  simp only [runHostOps] at h
  split at h
  · rename_i t out ht
    split at h
    · rename_i v outs' hr
      cases h
      exact ⟨t, out, outs', ht, hr, rfl⟩
    · cases h
    · cases h
  · cases h
  · cases h

/-- A run in two parts. -/
theorem runHostOps_append {ops rest : List HostOp} {s t u : State} {outs outs' : List HostOutput}
    (h : runHostOps ops s = .next (t, outs)) (hr : runHostOps rest t = .next (u, outs')) :
    runHostOps (ops ++ rest) s = .next (u, outs ++ outs') := by
  induction ops generalizing s outs with
  | nil => cases h; exact hr
  | cons op ops ih =>
    obtain ⟨v, out, outs'', hv, hrun, rfl⟩ := runHostOps_cons_cases h
    exact runHostOps_cons_next hv (ih hrun)

/-- Each operation of a run returns one output. -/
theorem runHostOps_length {ops : List HostOp} {s t : State} {outs : List HostOutput}
    (h : runHostOps ops s = .next (t, outs)) : outs.length = ops.length := by
  induction ops generalizing s outs with
  | nil => cases h; rfl
  | cons op ops ih =>
    obtain ⟨v, out, outs'', _, hrun, rfl⟩ := runHostOps_cons_cases h
    simp [ih hrun]

/-- What every operation keeps, every run keeps. -/
theorem runHostOps_keeps {P : State → Prop} (hop : ∀ op s t out, P s → hostOp op s = .next (t, out) → P t)
    {ops : List HostOp} {s t : State} {outs : List HostOutput} (hs : P s)
    (h : runHostOps ops s = .next (t, outs)) : P t := by
  induction ops generalizing s outs with
  | nil => cases h; exact hs
  | cons op ops ih =>
    obtain ⟨v, out, outs'', hv, hrun, rfl⟩ := runHostOps_cons_cases h
    exact ih (hop op s v out hs hv) hrun

/-- A run of Cycles alone is a run of host operations. -/
theorem runHostOps_of_runCycles {ins : List CycleInput} {s t : State} (h : runCycles ins s = .next t) :
    ∃ outs, runHostOps (ins.map (fun c => .cycle c.keys c.rnd)) s = .next (t, outs) := by
  induction ins generalizing s with
  | nil => cases h; exact ⟨[], rfl⟩
  | cons c ins ih =>
    simp only [runCycles] at h
    split at h
    · rename_i v hv
      obtain ⟨outs, hrun⟩ := ih h
      exact ⟨_, runHostOps_cons_next (out := .word v.lastOpcode) (by simp only [hostOp, hv]) hrun⟩
    · cases h
    · cases h

/-- A legal sequence is Reset and then any operations (R245). -/
theorem legalHostOps_iff (ops : List HostOp) : legalHostOps ops = true ↔ ∃ rest, ops = .reset :: rest := by
  cases ops with
  | nil => simp [legalHostOps]
  | cons op rest => cases op <;> simp [legalHostOps]

/-- A legal run does not depend on the hardware's state before its first Reset, which is unspecified (R241). -/
theorem runHostOps_legal_congr {ops : List HostOp} {s s' : State} (hl : legalHostOps ops = true)
    (hi : s.inputs = s'.inputs) (hc : s.cycleNo = s'.cycleNo) : runHostOps ops s = runHostOps ops s' := by
  obtain ⟨rest, rfl⟩ := (legalHostOps_iff ops).1 hl
  simp only [runHostOps, hostOp, hostReset, hi, hc]

end Sys2Proof.Machine
end

