-- ==== Sys2Proof/Laws/PerInstr.lean ====
section
/-!
SUPPORT. Per instruction: its word fits the row of the dispatch table that its format and pattern name
(spec/30_encoding.md R66, R67).
-/

namespace Sys2Proof.Laws.EncodesRow

/-- The word of `i`, masked as its format says, is its pattern, and the table has that row. -/
def Statement (i : Instr) : Prop :=
  encode i &&& i.format.mask = i.pattern ∧ ∃ r ∈ dispatchTable, r.mask = i.format.mask ∧ r.pattern = i.pattern

theorem mask_address (a : Nibble) (nnn : Addr12) : encodeAddr a nnn &&& 0xF000#16 = encodeAddr a 0#12 := by
  apply BitVec.eq_of_getLsbD_eq
  intro i hi
  rw [BitVec.getLsbD_and, encodeAddr, encodeAddr, BitVec.getLsbD_append, BitVec.getLsbD_append]
  interval_cases i <;> simp

theorem mask_immediate (a : Nibble) (x : RegIdx) (nn : Byte) :
    encodeImm a x nn &&& 0xF000#16 = encodeAddr a 0#12 := by
  apply BitVec.eq_of_getLsbD_eq
  intro i hi
  rw [BitVec.getLsbD_and, encodeImm, encodeAddr, BitVec.getLsbD_append, BitVec.getLsbD_append, BitVec.getLsbD_append]
  interval_cases i <;> simp

theorem mask_registers (a : Nibble) (x y : RegIdx) (d : Nibble) :
    wordOfNibbles a x y d &&& 0xF00F#16 = wordOfNibbles a 0#4 0#4 d := by
  apply BitVec.eq_of_getLsbD_eq
  intro i hi
  rw [BitVec.getLsbD_and, wordOfNibbles, wordOfNibbles]
  simp only [BitVec.getLsbD_append]
  interval_cases i <;> simp

theorem mask_draw (a : Nibble) (x y : RegIdx) (d : Nibble) :
    wordOfNibbles a x y d &&& 0xF000#16 = wordOfNibbles a 0#4 0#4 0#4 := by
  apply BitVec.eq_of_getLsbD_eq
  intro i hi
  rw [BitVec.getLsbD_and, wordOfNibbles, wordOfNibbles]
  simp only [BitVec.getLsbD_append]
  interval_cases i <;> simp

theorem mask_oneReg (a : Nibble) (x : RegIdx) (low : Byte) :
    encodeOneReg a x low &&& 0xF0FF#16 = encodeOneReg a 0#4 low := by
  apply BitVec.eq_of_getLsbD_eq
  intro i hi
  rw [BitVec.getLsbD_and, encodeOneReg, encodeOneReg]
  simp only [BitVec.getLsbD_append]
  interval_cases i <;> simp

/-- The row at a position of the table. -/
theorem row_at (m p : Word) (h : dispatchTable.any (fun r => r.mask == m && r.pattern == p) = true) :
    ∃ r ∈ dispatchTable, r.mask = m ∧ r.pattern = p := by
  simpa using h

theorem clearFb : Statement .clearFb :=
  ⟨by decide, row_at _ _ rfl⟩

theorem ret : Statement .ret :=
  ⟨by decide, row_at _ _ rfl⟩

theorem jump (nnn : Addr12) : Statement (.jump nnn) :=
  ⟨mask_address _ nnn, row_at _ _ rfl⟩

theorem call (nnn : Addr12) : Statement (.call nnn) :=
  ⟨mask_address _ nnn, row_at _ _ rfl⟩

theorem skipEqImm (x : RegIdx) (nn : Byte) : Statement (.skipEqImm x nn) :=
  ⟨mask_immediate _ x nn, row_at _ _ rfl⟩

theorem skipNeqImm (x : RegIdx) (nn : Byte) : Statement (.skipNeqImm x nn) :=
  ⟨mask_immediate _ x nn, row_at _ _ rfl⟩

theorem skipEqReg (x y : RegIdx) : Statement (.skipEqReg x y) :=
  ⟨mask_registers _ x y _, row_at _ _ rfl⟩

theorem setImm (x : RegIdx) (nn : Byte) : Statement (.setImm x nn) :=
  ⟨mask_immediate _ x nn, row_at _ _ rfl⟩

theorem addImm (x : RegIdx) (nn : Byte) : Statement (.addImm x nn) :=
  ⟨mask_immediate _ x nn, row_at _ _ rfl⟩

theorem setReg (x y : RegIdx) : Statement (.setReg x y) :=
  ⟨mask_registers _ x y _, row_at _ _ rfl⟩

theorem orReg (x y : RegIdx) : Statement (.orReg x y) :=
  ⟨mask_registers _ x y _, row_at _ _ rfl⟩

theorem andReg (x y : RegIdx) : Statement (.andReg x y) :=
  ⟨mask_registers _ x y _, row_at _ _ rfl⟩

theorem xorReg (x y : RegIdx) : Statement (.xorReg x y) :=
  ⟨mask_registers _ x y _, row_at _ _ rfl⟩

theorem addReg (x y : RegIdx) : Statement (.addReg x y) :=
  ⟨mask_registers _ x y _, row_at _ _ rfl⟩

theorem subReg (x y : RegIdx) : Statement (.subReg x y) :=
  ⟨mask_registers _ x y _, row_at _ _ rfl⟩

theorem shr (x y : RegIdx) : Statement (.shr x y) :=
  ⟨mask_registers _ x y _, row_at _ _ rfl⟩

theorem subn (x y : RegIdx) : Statement (.subn x y) :=
  ⟨mask_registers _ x y _, row_at _ _ rfl⟩

theorem shl (x y : RegIdx) : Statement (.shl x y) :=
  ⟨mask_registers _ x y _, row_at _ _ rfl⟩

theorem skipNeqReg (x y : RegIdx) : Statement (.skipNeqReg x y) :=
  ⟨mask_registers _ x y _, row_at _ _ rfl⟩

theorem setIndex (nnn : Addr12) : Statement (.setIndex nnn) :=
  ⟨mask_address _ nnn, row_at _ _ rfl⟩

theorem jumpPlus (nnn : Addr12) : Statement (.jumpPlus nnn) :=
  ⟨mask_address _ nnn, row_at _ _ rfl⟩

theorem random (x : RegIdx) (nn : Byte) : Statement (.random x nn) :=
  ⟨mask_immediate _ x nn, row_at _ _ rfl⟩

theorem draw (x y : RegIdx) (n : Nibble) : Statement (.draw x y n) :=
  ⟨mask_draw _ x y n, row_at _ _ rfl⟩

theorem skipKey (x : RegIdx) : Statement (.skipKey x) :=
  ⟨mask_oneReg _ x _, row_at _ _ rfl⟩

theorem skipNotkey (x : RegIdx) : Statement (.skipNotkey x) :=
  ⟨mask_oneReg _ x _, row_at _ _ rfl⟩

theorem getDelay (x : RegIdx) : Statement (.getDelay x) :=
  ⟨mask_oneReg _ x _, row_at _ _ rfl⟩

theorem getKey (x : RegIdx) : Statement (.getKey x) :=
  ⟨mask_oneReg _ x _, row_at _ _ rfl⟩

theorem setDelay (x : RegIdx) : Statement (.setDelay x) :=
  ⟨mask_oneReg _ x _, row_at _ _ rfl⟩

theorem setSound (x : RegIdx) : Statement (.setSound x) :=
  ⟨mask_oneReg _ x _, row_at _ _ rfl⟩

theorem addIndex (x : RegIdx) : Statement (.addIndex x) :=
  ⟨mask_oneReg _ x _, row_at _ _ rfl⟩

theorem fontAddr (x : RegIdx) : Statement (.fontAddr x) :=
  ⟨mask_oneReg _ x _, row_at _ _ rfl⟩

theorem bcd (x : RegIdx) : Statement (.bcd x) :=
  ⟨mask_oneReg _ x _, row_at _ _ rfl⟩

theorem regDump (x : RegIdx) : Statement (.regDump x) :=
  ⟨mask_oneReg _ x _, row_at _ _ rfl⟩

theorem regLoad (x : RegIdx) : Statement (.regLoad x) :=
  ⟨mask_oneReg _ x _, row_at _ _ rfl⟩

end Sys2Proof.Laws.EncodesRow
end

