-- ==== Sys2Proof/Tests/Slice0.lean ====
section
/-!
SUPPORT. Tests. Expected values come from spec/95_test_vectors.md, or from the dispatch table of spec/30_encoding.md R67
worked by hand. Then, for every obligation with hypotheses, states and operands that meet them all.
-/

namespace Sys2Proof.Tests

open Sys2Proof Sys2Proof.Machine

/-! ### Helpers -/

/-- The state with the machine about to fetch `w` at `a`. -/
def place (a w : Word) (s : State) : State := State.withFetchWord (s.setPc a) 16 w.toNat

/-- `f` of the state after one Cycle, if there is one. -/
def afterCycle {α : Type} (keys : BitVec 16) (rnd : Byte) (s : State) (f : State → α) : Option α :=
  match cycle keys rnd s with
  | .next t => some (f t)
  | .fault _ => none
  | .refused _ => none

/-- Two registers set after Reset. -/
def withRegs (x : RegIdx) (a : Byte) (y : RegIdx) (b : Byte) : State := (State.reset.setV x a).setV y b

/-- What a fault leaves: `halted`, the cause, the information, `pc`. -/
def faultView (t : State) : Bool × FaultCause × Word × Word := (t.halted, t.faultCause, t.faultInfo, t.pc)

/-- A framebuffer with one pixel on. -/
def onePixel (x : Fin 64) (y : Fin 32) : Framebuffer := Framebuffer.flip Framebuffer.clear x y

/-- After Reset, with `n` live stack entries of one value. -/
def withStack (n : Fin 17) (w : Word) : State :=
  { State.reset with depth := n, stack := Vector.replicate 16 w }

/-! ### Well-formedness: each check refuses an ill-formed term -/

/-- A row whose pattern has a 1 outside its mask can match no word (R62). -/
theorem test_row_refused :
    Row.wf { mask := 0xF000#16, pattern := 0x1001#16, build := fun _ => .clearFb } = false := by decide

/-- The row of `1NNN` is accepted. -/
theorem test_row_accepted :
    Row.wf { mask := 0xF000#16, pattern := 0x1000#16, build := fun d => .jump d.nnn } = true := by decide

/-- A row `0NNN` would overlap CLEAR (R68). -/
theorem test_overlap_refused :
    Row.disjoint { mask := 0xF000#16, pattern := 0x0000#16, build := fun _ => .clearFb }
      { mask := 0xFFFF#16, pattern := 0x00E0#16, build := fun _ => .clearFb } = false := by decide

/-- CLEAR and RETURN are disjoint (R68). -/
theorem test_disjoint_accepted :
    Row.disjoint { mask := 0xFFFF#16, pattern := 0x00E0#16, build := fun _ => .clearFb }
      { mask := 0xFFFF#16, pattern := 0x00EE#16, build := fun _ => .ret } = true := by decide

/-- A program of 3585 bytes does not fit (S12). -/
theorem test_rom_refused : romFits (List.replicate 3585 0xAB#8) = false := by
  simp only [romFits, List.length_replicate]; decide

/-- A program of 3584 bytes fits (S12). -/
theorem test_rom_accepted : romFits (List.replicate 3584 0xAB#8) = true := by
  simp only [romFits, List.length_replicate]; decide

/-- Every operand of an instruction has its field's width, so the largest ones are well-formed (R64). -/
theorem test_instr_wf : (Instr.draw 0xF#4 0xF#4 0xF#4).wf = true := by decide

/-! ### Decoding: the word of each row of R67, written out from its pattern column -/

theorem test_decode_clearFb : decodeWord 0x00E0#16 = .ok .clearFb := by decide

theorem test_decode_ret : decodeWord 0x00EE#16 = .ok .ret := by decide

theorem test_decode_jump : decodeWord 0x1ABC#16 = .ok (.jump 0xABC#12) := by decide

theorem test_decode_call : decodeWord 0x2DEF#16 = .ok (.call 0xDEF#12) := by decide

theorem test_decode_skipEqImm : decodeWord 0x3A05#16 = .ok (.skipEqImm 0xA#4 0x05#8) := by decide

theorem test_decode_skipNeqImm : decodeWord 0x4B80#16 = .ok (.skipNeqImm 0xB#4 0x80#8) := by decide

theorem test_decode_skipEqReg : decodeWord 0x5AB0#16 = .ok (.skipEqReg 0xA#4 0xB#4) := by decide

theorem test_decode_setImm : decodeWord 0x6A05#16 = .ok (.setImm 0xA#4 0x05#8) := by decide

theorem test_decode_addImm : decodeWord 0x7F01#16 = .ok (.addImm 0xF#4 0x01#8) := by decide

theorem test_decode_setReg : decodeWord 0x8AB0#16 = .ok (.setReg 0xA#4 0xB#4) := by decide

theorem test_decode_orReg : decodeWord 0x8AB1#16 = .ok (.orReg 0xA#4 0xB#4) := by decide

theorem test_decode_andReg : decodeWord 0x8AB2#16 = .ok (.andReg 0xA#4 0xB#4) := by decide

theorem test_decode_xorReg : decodeWord 0x8AB3#16 = .ok (.xorReg 0xA#4 0xB#4) := by decide

theorem test_decode_addReg : decodeWord 0x8AB4#16 = .ok (.addReg 0xA#4 0xB#4) := by decide

theorem test_decode_subReg : decodeWord 0x8AB5#16 = .ok (.subReg 0xA#4 0xB#4) := by decide

theorem test_decode_shr : decodeWord 0x8AB6#16 = .ok (.shr 0xA#4 0xB#4) := by decide

theorem test_decode_subn : decodeWord 0x8AB7#16 = .ok (.subn 0xA#4 0xB#4) := by decide

theorem test_decode_shl : decodeWord 0x8ABE#16 = .ok (.shl 0xA#4 0xB#4) := by decide

theorem test_decode_skipNeqReg : decodeWord 0x9AB0#16 = .ok (.skipNeqReg 0xA#4 0xB#4) := by decide

theorem test_decode_setIndex : decodeWord 0xA123#16 = .ok (.setIndex 0x123#12) := by decide

theorem test_decode_jumpPlus : decodeWord 0xBFFF#16 = .ok (.jumpPlus 0xFFF#12) := by decide

theorem test_decode_random : decodeWord 0xCA0F#16 = .ok (.random 0xA#4 0x0F#8) := by decide

theorem test_decode_draw : decodeWord 0xD125#16 = .ok (.draw 0x1#4 0x2#4 0x5#4) := by decide

theorem test_decode_skipKey : decodeWord 0xE59E#16 = .ok (.skipKey 0x5#4) := by decide

theorem test_decode_skipNotkey : decodeWord 0xE5A1#16 = .ok (.skipNotkey 0x5#4) := by decide

theorem test_decode_getDelay : decodeWord 0xF407#16 = .ok (.getDelay 0x4#4) := by decide

theorem test_decode_getKey : decodeWord 0xF50A#16 = .ok (.getKey 0x5#4) := by decide

theorem test_decode_setDelay : decodeWord 0xF315#16 = .ok (.setDelay 0x3#4) := by decide

theorem test_decode_setSound : decodeWord 0xF318#16 = .ok (.setSound 0x3#4) := by decide

theorem test_decode_addIndex : decodeWord 0xFA1E#16 = .ok (.addIndex 0xA#4) := by decide

theorem test_decode_fontAddr : decodeWord 0xFA29#16 = .ok (.fontAddr 0xA#4) := by decide

theorem test_decode_bcd : decodeWord 0xFA33#16 = .ok (.bcd 0xA#4) := by decide

theorem test_decode_regDump : decodeWord 0xF255#16 = .ok (.regDump 0x2#4) := by decide

theorem test_decode_regLoad : decodeWord 0xFF65#16 = .ok (.regLoad 0xF#4) := by decide

/-- The unmatched words of section 2.1 of spec/95_test_vectors.md, each under its class (R71). -/
theorem test_decode_unmatched :
    decodeWord 0x00E1#16 = .error .word0NNN ∧ decodeWord 0x5AB1#16 = .error .word5XYn ∧
    decodeWord 0x8AB8#16 = .error .word8XYn ∧ decodeWord 0x9AB1#16 = .error .word9XYn ∧
    decodeWord 0xE09F#16 = .error .wordEXnn ∧ decodeWord 0xFFFF#16 = .error .wordFXnn := by decide

/-- The encoder against words written out by hand, one per format (R66). -/
theorem test_encode :
    encode .ret = 0x00EE#16 ∧ encode (.jumpPlus 0x2FE#12) = 0xB2FE#16 ∧ encode (.random 0x1#4 0x9C#8) = 0xC19C#16 ∧
    encode (.subn 0x1#4 0xE#4) = 0x81E7#16 ∧ encode (.draw 0x3#4 0x4#4 0xF#4) = 0xD34F#16 ∧
    encode (.bcd 0x7#4) = 0xF733#16 := by decide

/-- The host's numbering: the first word is the instruction. -/
theorem test_table_word :
    decodeTableWord 16 0x6A05 = some (.setImm 0xA#4 0x05#8) ∧ decodeTableWord 16 0x00E1 = none := by decide

/-! ### One cycle each: the vectors of spec/95_test_vectors.md -/

theorem test_clearFb :
    afterCycle 0x0000#16 0x00#8 (place 0x200#16 0x00E0#16 { State.reset with fb := onePixel 63 31 })
        (fun t => (Framebuffer.pixel t.fb 63 31, t.drawPending, t.pc)) = some (false, false, 0x202#16) := by decide

theorem test_ret :
    afterCycle 0x0000#16 0x00#8 (place 0x300#16 0x00EE#16 (withStack 1 0x200#16))
        (fun t => (t.pc, t.sp, t.stack[0])) = some (0x202#16, -1, 0x200#16) := by decide

theorem test_ret_underflow :
    afterCycle 0x0000#16 0x00#8 (place 0x200#16 0x00EE#16 State.reset)
        (fun t => (faultView t, t.sp)) = some ((true, .stackUnderflow, 0x200#16, 0x200#16), -1) := by decide

theorem test_jump :
    afterCycle 0x0000#16 0x00#8 (place 0x200#16 0x1ABC#16 State.reset)
        (fun t => t.pc) = some 0xABC#16 := by decide

theorem test_jump_self :
    afterCycle 0x0000#16 0x00#8 (place 0x200#16 0x1200#16 State.reset)
        (fun t => t.pc) = some 0x200#16 := by decide

theorem test_call :
    afterCycle 0x0000#16 0x00#8 (place 0x200#16 0x2300#16 State.reset)
        (fun t => (t.sp, t.stack[0], t.pc)) = some (0, 0x200#16, 0x300#16) := by decide

theorem test_call_overflow :
    afterCycle 0x0000#16 0x00#8 (place 0x200#16 0x2300#16 (withStack 16 0x222#16))
        (fun t => (faultView t, t.sp, t.stack[15]))
      = some ((true, .stackOverflow, 0x200#16, 0x200#16), 15, 0x222#16) := by decide

theorem test_skipEqImm_equal :
    afterCycle 0x0000#16 0x00#8 (place 0x200#16 0x3A05#16 (State.reset.setV 0xA#4 0x05#8))
        (fun t => t.pc) = some 0x204#16 := by decide

theorem test_skipEqImm_differ :
    afterCycle 0x0000#16 0x00#8 (place 0x200#16 0x3A05#16 (State.reset.setV 0xA#4 0x06#8))
        (fun t => t.pc) = some 0x202#16 := by decide

theorem test_skipNeqImm_equal :
    afterCycle 0x0000#16 0x00#8 (place 0x200#16 0x4A05#16 (State.reset.setV 0xA#4 0x05#8))
        (fun t => t.pc) = some 0x202#16 := by decide

theorem test_skipNeqImm_differ :
    afterCycle 0x0000#16 0x00#8 (place 0x200#16 0x4A05#16 (State.reset.setV 0xA#4 0x06#8))
        (fun t => t.pc) = some 0x204#16 := by decide

theorem test_skipEqReg_equal :
    afterCycle 0x0000#16 0x00#8 (place 0x200#16 0x5AB0#16 (withRegs 0xA#4 0x07#8 0xB#4 0x07#8))
        (fun t => t.pc) = some 0x204#16 := by decide

theorem test_skipEqReg_differ :
    afterCycle 0x0000#16 0x00#8 (place 0x200#16 0x5AB0#16 (withRegs 0xA#4 0x07#8 0xB#4 0x08#8))
        (fun t => t.pc) = some 0x202#16 := by decide

theorem test_skipNeqReg_equal :
    afterCycle 0x0000#16 0x00#8 (place 0x200#16 0x9AB0#16 (withRegs 0xA#4 0x07#8 0xB#4 0x07#8))
        (fun t => t.pc) = some 0x202#16 := by decide

theorem test_skipNeqReg_differ :
    afterCycle 0x0000#16 0x00#8 (place 0x200#16 0x9AB0#16 (withRegs 0xA#4 0x07#8 0xB#4 0x08#8))
        (fun t => t.pc) = some 0x204#16 := by decide

theorem test_jumpPlus_keeps_bit_12 :
    afterCycle 0x0000#16 0x00#8 (place 0x200#16 0xBFFF#16 (State.reset.setV 0x0#4 0xFF#8))
        (fun t => t.pc) = some 0x10FE#16 := by decide

theorem test_setImm :
    afterCycle 0x0000#16 0x00#8 (place 0x200#16 0x6A05#16 State.reset)
        (fun t => (t.getV 0xA#4, t.pc, t.lastOpcode)) = some (0x05#8, 0x202#16, 0x6A05#16) := by decide

theorem test_addImm_wraps :
    afterCycle 0x0000#16 0x00#8 (place 0x200#16 0x7A01#16 (withRegs 0xA#4 0xFF#8 0xF#4 0x07#8))
        (fun t => (t.getV 0xA#4, t.getV 0xF#4)) = some (0x00#8, 0x07#8) := by decide

theorem test_addImm_to_flag :
    afterCycle 0x0000#16 0x00#8 (place 0x200#16 0x7F01#16 (State.reset.setV 0xF#4 0xFF#8))
        (fun t => t.getV 0xF#4) = some 0x00#8 := by decide

theorem test_setReg :
    afterCycle 0x0000#16 0x00#8 (place 0x200#16 0x8AB0#16 (withRegs 0xA#4 0x01#8 0xB#4 0x5C#8))
        (fun t => (t.getV 0xA#4, t.getV 0xB#4)) = some (0x5C#8, 0x5C#8) := by decide

theorem test_orReg :
    afterCycle 0x0000#16 0x00#8 (place 0x200#16 0x8AB1#16 (withRegs 0xA#4 0xF0#8 0xB#4 0x0F#8))
        (fun t => (t.getV 0xA#4, t.getV 0xF#4)) = some (0xFF#8, 0x00#8) := by decide

theorem test_andReg :
    afterCycle 0x0000#16 0x00#8 (place 0x200#16 0x8AB2#16 (withRegs 0xA#4 0xF0#8 0xB#4 0x3C#8))
        (fun t => t.getV 0xA#4) = some 0x30#8 := by decide

theorem test_xorReg :
    afterCycle 0x0000#16 0x00#8 (place 0x200#16 0x8AB3#16 (withRegs 0xA#4 0xFF#8 0xB#4 0x0F#8))
        (fun t => t.getV 0xA#4) = some 0xF0#8 := by decide

theorem test_xorReg_keeps_flag :
    afterCycle 0x0000#16 0x00#8 (place 0x200#16 0x8AA3#16 (withRegs 0xA#4 0x5A#8 0xF#4 0x09#8))
        (fun t => (t.getV 0xA#4, t.getV 0xF#4)) = some (0x00#8, 0x09#8) := by decide

theorem test_addReg_carry :
    afterCycle 0x0000#16 0x00#8 (place 0x200#16 0x8AB4#16 (withRegs 0xA#4 0x80#8 0xB#4 0x80#8))
        (fun t => (t.getV 0xA#4, t.getV 0xF#4)) = some (0x00#8, 0x01#8) := by decide

theorem test_addReg_flag_last :
    afterCycle 0x0000#16 0x00#8 (place 0x200#16 0x8F14#16 (withRegs 0xF#4 0x01#8 0x1#4 0x02#8))
        (fun t => t.getV 0xF#4) = some 0x00#8 := by decide

theorem test_subReg_absolute :
    afterCycle 0x0000#16 0x00#8 (place 0x200#16 0x8AB5#16 (withRegs 0xA#4 0x03#8 0xB#4 0x05#8))
        (fun t => (t.getV 0xA#4, t.getV 0xF#4)) = some (0x02#8, 0x00#8) := by decide

theorem test_subReg_flag_operand :
    afterCycle 0x0000#16 0x00#8 (place 0x200#16 0x81F5#16 (withRegs 0x1#4 0x09#8 0xF#4 0x03#8))
        (fun t => (t.getV 0x1#4, t.getV 0xF#4)) = some (0x06#8, 0x01#8) := by decide

theorem test_shr :
    afterCycle 0x0000#16 0x00#8 (place 0x200#16 0x8AB6#16 (withRegs 0xA#4 0x05#8 0xB#4 0xF0#8))
        (fun t => (t.getV 0xA#4, t.getV 0xF#4, t.getV 0xB#4)) = some (0x02#8, 0x01#8, 0xF0#8) := by decide

theorem test_shr_flag_last :
    afterCycle 0x0000#16 0x00#8 (place 0x200#16 0x8F06#16 (State.reset.setV 0xF#4 0x02#8))
        (fun t => t.getV 0xF#4) = some 0x00#8 := by decide

theorem test_subn :
    afterCycle 0x0000#16 0x00#8 (place 0x200#16 0x8AB7#16 (withRegs 0xA#4 0x03#8 0xB#4 0x05#8))
        (fun t => (t.getV 0xA#4, t.getV 0xF#4)) = some (0x02#8, 0x01#8) := by decide

theorem test_subn_wraps :
    afterCycle 0x0000#16 0x00#8 (place 0x200#16 0x8AB7#16 (withRegs 0xA#4 0x05#8 0xB#4 0x03#8))
        (fun t => (t.getV 0xA#4, t.getV 0xF#4)) = some (0xFE#8, 0x00#8) := by decide

theorem test_shl :
    afterCycle 0x0000#16 0x00#8 (place 0x200#16 0x8ABE#16 (withRegs 0xA#4 0x81#8 0xB#4 0x0F#8))
        (fun t => (t.getV 0xA#4, t.getV 0xF#4, t.getV 0xB#4)) = some (0x02#8, 0x01#8, 0x0F#8) := by decide

theorem test_shl_flag_before :
    afterCycle 0x0000#16 0x00#8 (place 0x200#16 0x8ABE#16 (State.reset.setV 0xA#4 0x40#8))
        (fun t => (t.getV 0xA#4, t.getV 0xF#4)) = some (0x80#8, 0x00#8) := by decide

theorem test_random_masks :
    afterCycle 0x0000#16 0xA7#8 (place 0x200#16 0xCA0F#16 (State.reset.setV 0xA#4 0xEE#8))
        (fun t => t.getV 0xA#4) = some 0x07#8 := by decide

theorem test_setIndex :
    afterCycle 0x0000#16 0x00#8 (place 0x200#16 0xA123#16 State.reset)
        (fun t => t.i) = some 0x123#16 := by decide

theorem test_addIndex_wraps :
    afterCycle 0x0000#16 0x00#8 (place 0x200#16 0xFA1E#16 (withRegs 0xA#4 0x01#8 0xF#4 0x09#8 |>.setI 0xFFFF#16))
        (fun t => (t.i, t.getV VF)) = some (0x0000#16, 0x09#8) := by decide

theorem test_fontAddr_not_masked :
    afterCycle 0x0000#16 0x00#8 (place 0x200#16 0xFA29#16 (State.reset.setV 0xA#4 0xFF#8))
        (fun t => t.i) = some 0x04FB#16 := by decide

theorem test_bcd :
    afterCycle 0x0000#16 0x00#8 (place 0x200#16 0xFA33#16 ((State.reset.setV 0xA#4 0x9C#8).setI 0x300#16))
        (fun t => (t.readByte 0x300, t.readByte 0x301, t.readByte 0x302, t.i))
      = some (0x01#8, 0x05#8, 0x06#8, 0x300#16) := by decide

theorem test_bcd_bounds :
    afterCycle 0x0000#16 0x00#8 (place 0x200#16 0xFA33#16 ((State.reset.setV 0xA#4 0xFF#8).setI 0xFFE#16))
        (fun t => (faultView t, t.readByte 0xFFE, t.readByte 0xFFF))
      = some ((true, .memBounds, 0x1000#16, 0x200#16), 0x00#8, 0x00#8) := by decide

theorem test_regDump_inclusive :
    afterCycle 0x0000#16 0x00#8 (place 0x200#16 0xF255#16 ((withRegs 0x1#4 0x22#8 0x2#4 0x33#8
          |>.setV 0x3#4 0x44#8).setI 0x400#16))
        (fun t => (t.readByte 0x401, t.readByte 0x402, t.readByte 0x403, t.i))
      = some (0x22#8, 0x33#8, 0x00#8, 0x400#16) := by decide

theorem test_regDump_bounds :
    afterCycle 0x0000#16 0x00#8 (place 0x200#16 0xFF55#16 ((State.reset.setV 0x0#4 0xA0#8).setI 0xFF1#16))
        (fun t => (faultView t, t.readByte 0xFF1))
      = some ((true, .memBounds, 0x1000#16, 0x200#16), 0x00#8) := by decide

theorem test_regLoad_flag_register :
    afterCycle 0x0000#16 0x00#8 (place 0x200#16 0xFF65#16 State.reset)
        (fun t => (t.getV 0x0#4, t.getV 0x9#4, t.getV 0xF#4)) = some (0xF0#8, 0x70#8, 0xF0#8) := by decide

theorem test_regLoad_bounds :
    afterCycle 0x0000#16 0x00#8 (place 0x200#16 0xF165#16 ((withRegs 0x0#4 0x01#8 0x1#4 0x02#8).setI 0xFFF#16))
        (fun t => (faultView t, t.getV 0x0#4, t.getV 0x1#4))
      = some ((true, .memBounds, 0x1000#16, 0x200#16), 0x01#8, 0x02#8) := by decide

theorem test_draw_wraps :
    afterCycle 0x0000#16 0x00#8 (place 0x200#16 0xD012#16 ((withRegs 0x0#4 0x3E#8 0x1#4 0x1F#8).setI 0x300#16
          |>.writeBytes 0x300 [0xFF#8, 0x81#8]))
        (fun t => (Framebuffer.pixel t.fb 62 31, Framebuffer.pixel t.fb 5 31,
        Framebuffer.pixel t.fb 6 31, Framebuffer.pixel t.fb 5 0, Framebuffer.pixel t.fb 63 0))
      = some (true, true, false, true, false) := by decide

theorem test_draw_collision :
    afterCycle 0x0000#16 0x00#8 (place 0x200#16 0xD011#16 ({ State.reset with fb := onePixel 0 0, i := 0x300#16 }
          |>.writeByte 0x300 0xF0#8))
        (fun t => (Framebuffer.pixel t.fb 0 0, Framebuffer.pixel t.fb 3 0, t.getV VF))
      = some (false, true, 0x01#8) := by decide

theorem test_skipKey :
    afterCycle 0x0008#16 0x00#8 (place 0x210#16 0xE59E#16 (State.reset.setV 0x5#4 0x03#8))
        (fun t => t.pc) = some 0x214#16 := by decide

theorem test_skipKey_index :
    afterCycle 0xFFFF#16 0x00#8 (place 0x200#16 0xE59E#16 (State.reset.setV 0x5#4 0x10#8))
        (fun t => faultView t) = some (true, .keyIndex, 0x10#16, 0x200#16) := by decide

theorem test_skipNotkey :
    afterCycle 0x0008#16 0x00#8 (place 0x210#16 0xE5A1#16 (State.reset.setV 0x5#4 0x03#8))
        (fun t => t.pc) = some 0x212#16 := by decide

theorem test_skipNotkey_index :
    afterCycle 0x0000#16 0x00#8 (place 0x200#16 0xE5A1#16 (State.reset.setV 0x5#4 0xFF#8))
        (fun t => faultView t) = some (true, .keyIndex, 0xFF#16, 0x200#16) := by decide

theorem test_getKey_waits :
    afterCycle 0x0000#16 0x00#8 (place 0x200#16 0xF50A#16 (State.reset.setV 0x5#4 0x77#8))
        (fun t => (t.getV 0x5#4, t.pc)) = some (0x77#8, 0x200#16) := by decide

theorem test_getKey_least :
    afterCycle 0x0088#16 0x00#8 (place 0x200#16 0xF50A#16 (State.reset.setV 0x5#4 0x77#8))
        (fun t => (t.getV 0x5#4, t.pc)) = some (0x03#8, 0x202#16) := by decide

theorem test_getDelay_after_tick :
    afterCycle 0x0000#16 0x00#8 (place 0x200#16 0xF407#16 (State.reset.setDt 5#8))
        (fun t => (t.getV 0x4#4, t.dt)) = some (4#8, 4#8) := by decide

theorem test_setDelay_after_tick :
    afterCycle 0x0000#16 0x00#8 (place 0x200#16 0xF315#16 ((State.reset.setV 0x3#4 5#8).setDt 9#8))
        (fun t => t.dt) = some 5#8 := by decide

theorem test_setSound :
    afterCycle 0x0000#16 0x00#8 (place 0x200#16 0xF318#16 ((State.reset.setV 0x3#4 0x20#8).setSt 1#8))
        (fun t => t.st) = some 32#8 := by decide

/-! ### The cycle and the host operations -/

/-- S13: an unmatched word ticks the timers and stays. -/
theorem test_unmatched_inert :
    afterCycle 0x0000#16 0x00#8 (place 0x200#16 0x0000#16 ((State.reset.setDt 255#8).setSt 1#8))
        (fun t => (t.dt, t.st, t.pc, t.halted)) = some (254#8, 0#8, 0x200#16, false) := by decide

theorem test_fetch_bounds :
    afterCycle 0x0001#16 0x00#8 ((State.reset.setPc 0xFFF#16).setDt 3#8)
        (fun t => (faultView t, t.dt, t.key, t.lastOpcode))
      = some ((true, .fetchBounds, 0xFFF#16, 0xFFF#16), 2#8, 0x0001#16, 0x0000#16) := by decide

theorem test_odd_pc :
    afterCycle 0x0000#16 0x00#8 (place 0x201#16 0x6A05#16 State.reset)
        (fun t => (t.getV 0xA#4, t.pc)) = some (0x05#8, 0x203#16) := by decide

/-- A step takes the fixed inputs, and runs the placed word. -/
theorem test_step_takes_inputs :
    (match step (place 0x200#16 0xCAFF#16 { State.reset with inputs := [{ keys := 0x0008#16, rnd := 0xA7#8 }] }) with
      | .next t => (t.getV 0xA#4, t.key, t.inputs.length)
      | .fault _ => (0#8, 0#16, 7)
      | .refused _ => (0#8, 0#16, 9)) = (0xA7#8, 0x0008#16, 0) := by decide

/-- Load of two bytes after Reset (S7). -/
theorem test_load :
    (match hostLoad [0x6A#8, 0x05#8] State.reset with
      | .ok t => some (t.readByte 0x200, t.readByte 0x201, t.pc)
      | .error _ => none) = some (0x6A#8, 0x05#8, 0x200#16) := by decide

/-- A sequence that does not start with Reset is not legal (R245). -/
theorem test_legal_sequence_refused :
    legalHostOps [.load [0x12#8, 0x00#8], .reset] = false ∧ legalHostOps [] = false := by decide

/-- Reset, Load of `6A 05`, one Cycle (S7): the state left and what each operation returned (R248). -/
theorem test_host_sequence :
    (match runHostOps [.reset, .load [0x6A#8, 0x05#8], .cycle 0x0000#16 0x00#8] (State.reset.setPc 0x333#16) with
      | .next (t, outs) => some (t.getV 0xA#4, t.pc, outs)
      | .fault _ => none
      | .refused _ => none) = some (0x05#8, 0x202#16, [.nothing, .loaded, .word 0x6A05#16]) := by decide

/-- Reset clears a fault (section 2.8). -/
theorem test_reset_after_fault :
    (hostReset (State.reset.fail .memBounds 0x1234#16)).halted = false := by decide

/-- The memory of the tests is in canonical form, and writing back what Reset leaves removes the cell (R40). -/
theorem test_memory_canonical :
    (Memory.write [] 0x300 0x12#8).wf ∧ Memory.write (Memory.write [] 0x300 0x12#8) 0x300 0x00#8 = [] ∧
    Memory.write [] 0x000 0xF0#8 = [] := by decide

/-! ### Witnesses: the hypotheses of the obligations can be met, each clause at its boundary -/

/-- A machine about to fetch a word at the last place where both its bytes exist. -/
def atTop (w : Word) : State := place 0xFFE#16 w State.reset

theorem witness_EncodeOfDecode :
    decodeWord 0x00E0#16 = .ok .clearFb ∧ decodeWord 0xFF65#16 = .ok (.regLoad 0xF#4) := by decide

theorem witness_ResetHoldsTheFont : 0x50 ≤ 0x50 ∧ 0x50 ≤ 0xFFF ∧ 0x50 ≤ 0xFFF ∧ 0xFFF ≤ 0xFFF := by decide

theorem witness_StepRunsDecodedInstruction :
    (atTop 0x6A05#16).halted = false ∧ (atTop 0x6A05#16).pc.toNat + 1 ≤ 0xFFF ∧
    decode ((atTop 0x6A05#16).readByte (atTop 0x6A05#16).pc.toNat)
      ((atTop 0x6A05#16).readByte ((atTop 0x6A05#16).pc.toNat + 1)) = .ok (.setImm 0xA#4 0x05#8) := by decide

theorem witness_CycleCommitsKeysTimersAndWord_fetched :
    (atTop 0x6A05#16).halted = false ∧ (atTop 0x6A05#16).pc.toNat + 1 ≤ 0xFFF ∧
    (∀ x, (atTop 0x6A05#16).nextInstr ≠ some (.setDelay x)) ∧
    (∀ x, (atTop 0x6A05#16).nextInstr ≠ some (.setSound x)) := by decide

theorem witness_CycleCommitsKeysTimersAndWord_beyond :
    (State.reset.setPc 0xFFF#16).halted = false ∧ 0xFFF < (State.reset.setPc 0xFFF#16).pc.toNat + 1 := by decide

theorem witness_HaltedMachineStays : (State.reset.fail .keyIndex 0x10#16).halted = true := by decide

theorem witness_FetchBeyondMemoryFaults :
    (State.reset.setPc 0xFFF#16).halted = false ∧ 0xFFF < (State.reset.setPc 0xFFF#16).pc.toNat + 1 := by decide

theorem witness_UnmatchedWordIsInert :
    (atTop 0x8AB8#16).halted = false ∧ (atTop 0x8AB8#16).pc.toNat + 1 ≤ 0xFFF ∧
    decode ((atTop 0x8AB8#16).readByte (atTop 0x8AB8#16).pc.toNat)
      ((atTop 0x8AB8#16).readByte ((atTop 0x8AB8#16).pc.toNat + 1)) = .error .word8XYn := by decide

/-- Reset without a Load: the word 0x0000 at 0x200 is unmatched (F2). -/
theorem witness_UnmatchedWordRepeatsForever :
    State.reset.halted = false ∧ State.reset.pc.toNat + 1 ≤ 0xFFF ∧
    decode (State.reset.readByte State.reset.pc.toNat) (State.reset.readByte (State.reset.pc.toNat + 1)) =
      .error .word0NNN := by decide

theorem witness_InputsReachOnlyTheirReaders :
    (atTop 0xF315#16).halted = false ∧ (∀ x nn, (atTop 0xF315#16).nextInstr ≠ some (.random x nn)) ∧
    (∀ x, (atTop 0xF315#16).nextInstr ≠ some (.skipKey x) ∧ (atTop 0xF315#16).nextInstr ≠ some (.skipNotkey x) ∧
      (atTop 0xF315#16).nextInstr ≠ some (.getKey x)) := by
  have h : (atTop 0xF315#16).nextInstr = some (.setDelay 0x3#4) := by decide
  exact ⟨by decide, by simp [h], by simp [h]⟩

theorem witness_ReturnResumesAfterCall :
    (withStack 1 0x200#16).sp = (0 : Nat) ∧ (withStack 16 0x200#16).sp = (15 : Nat) ∧ State.reset.sp = -1 := by decide

theorem witness_CallPushesItsOwnAddress :
    State.reset.sp < 15 ∧ (withStack 15 0x200#16).sp < 15 ∧ (withStack 16 0x200#16).sp = 15 := by decide

theorem witness_CallThenReturnResumes :
    ∃ t, exec (.call 0x300#12) State.reset = .next t ∧ State.reset.sp < 15 ∧
      (t.setPc 0x304#16).stack = t.stack ∧ (t.setPc 0x304#16).depth = t.depth :=
  ⟨_, rfl, by decide, rfl, rfl⟩

/-- At the top of memory, with the largest live entry. -/
theorem witness_HandlersBoundThePc :
    (place 0xFFE#16 0x00EE#16 (withStack 1 0xFFE#16)).pc.toNat ≤ 0xFFE ∧
    (∀ (k : Nat) (h : k < 16), (place 0xFFE#16 0x00EE#16 (withStack 1 0xFFE#16)).sp = k →
      ((place 0xFFE#16 0x00EE#16 (withStack 1 0xFFE#16)).stack[k]'h).toNat ≤ 0xFFE) ∧
    (∃ t, exec .ret (place 0xFFE#16 0x00EE#16 (withStack 1 0xFFE#16)) = .next t) := by
  refine ⟨by decide, ?_, _, rfl⟩
  intro k h _
  simp [place, State.withFetchWord, withStack]

theorem witness_FlagRegisterRule_defines :
    ∃ t, exec (.addReg 0xF#4 0x1#4) State.reset = .next t ∧ State.reset.halted = false ∧
      (Instr.addReg 0xF#4 0x1#4).definesFlag = true ∧ t.halted = false := ⟨_, rfl, by decide, by decide, rfl⟩

theorem witness_FlagRegisterRule_leaves :
    ∃ t, exec (.regLoad 0xE#4) State.reset = .next t ∧ State.reset.halted = false ∧
      (Instr.regLoad 0xE#4).definesFlag = false ∧ (Instr.regLoad 0xE#4).ordinaryDest ≠ some VF :=
  ⟨_, rfl, by decide, by decide, by decide⟩

theorem witness_BcdStoresThreeDigits :
    (State.reset.setI 0xFFD#16).i.toNat + 2 ≤ 0xFFF ∧ 0xFFF < (State.reset.setI 0xFFE#16).i.toNat + 2 := by decide

theorem witness_RegDumpStoresRegisters :
    (State.reset.setI 0xFF0#16).i.toNat + (0xF#4).toNat ≤ 0xFFF ∧
    0xFFF < (State.reset.setI 0xFF1#16).i.toNat + (0xF#4).toNat := by decide

theorem witness_RegLoadLoadsRegisters :
    (State.reset.setI 0xFFF#16).i.toNat + (0x0#4).toNat ≤ 0xFFF ∧
    0xFFF < (State.reset.setI 0xFFF#16).i.toNat + (0x1#4).toNat := by decide

/-- No row at all with `I` beyond memory, the last byte of memory, and one row too many. -/
theorem witness_DrawXorsTheSprite :
    ((0x0#4).toNat = 0 ∨ (State.reset.setI 0xFFFF#16).i.toNat + (0x0#4).toNat - 1 ≤ 0xFFF) ∧
    ((0x1#4).toNat = 0 ∨ (State.reset.setI 0xFFF#16).i.toNat + (0x1#4).toNat - 1 ≤ 0xFFF) ∧
    (0x2#4).toNat ≠ 0 ∧ 0xFFF < (State.reset.setI 0xFFF#16).i.toNat + (0x2#4).toNat - 1 := by decide

/-- The glyph of 0 at (0, 0), drawn once. -/
theorem witness_DoubleDrawRestores :
    ((0x5#4).toNat = 0 ∨ State.reset.i.toNat + (0x5#4).toNat - 1 ≤ 0xFFF) ∧
    ∃ t, exec (.draw 0x0#4 0x1#4 0x5#4) State.reset = .next t ∧ t.getV 0x0#4 = State.reset.getV 0x0#4 ∧
      t.getV 0x1#4 = State.reset.getV 0x1#4 := by
  refine ⟨by decide, _, State.withRange_ok (s := State.reset) (n := (0x5#4).toNat) (by decide), ?_, ?_⟩ <;>
    simp [State.getV_setV, VF]

theorem witness_KeySkipsTestTheNamedKey :
    ((State.reset.setV 0x5#4 0x0F#8).getV 0x5#4).toNat ≤ 15 ∧
    15 < ((State.reset.setV 0x5#4 0x10#8).getV 0x5#4).toNat := by
  decide

theorem witness_GetKeyTakesTheLeastKey :
    (0x0001#16).getLsbD 0 = true ∧ (0x8000#16).getLsbD 15 = true ∧ (∀ j < 15, (0x8000#16).getLsbD j = false) ∧
    ({ State.reset with key := 0x8000#16 } : State).key = 0x8000#16 ∧
    (∀ k < 16, State.reset.key.getLsbD k = false) := by decide

theorem witness_GetKeyWaitsForAKey :
    (atTop 0xF50A#16).halted = false ∧ (atTop 0xF50A#16).nextInstr = some (.getKey 0x5#4) ∧
    (∀ c ∈ [({ keys := 0#16, rnd := 7#8 } : CycleInput)], c.keys = 0#16) ∧
    ({ keys := 0x0088#16, rnd := 7#8 } : CycleInput).keys ≠ 0#16 := by decide

/-- SET_DELAY V3 at 0x200, GET_DELAY V4 after it. -/
def delayPair : State := place 0x200#16 0xF315#16 (place 0x202#16 0xF407#16 State.reset)

theorem witness_SetDelayThenGetDelay :
    delayPair.halted = false ∧ delayPair.nextInstr = some (.setDelay 0x3#4) ∧
    State.nextInstr { delayPair with pc := delayPair.pc + 2#16 } = some (.getDelay 0x4#4) := by decide

theorem witness_FaultingHandlerChangesNothingElse :
    ∃ t, exec .ret State.reset = .next t ∧ State.reset.halted = false ∧ t.halted = true := ⟨_, rfl, rfl, rfl⟩

/-- One operand below each bound of the table of R210, and one above. -/
theorem witness_HandlersFaultExactlyWhen :
    State.reset.halted = false ∧
    handlerFault .ret (withStack 1 0x200#16) = none ∧
    handlerFault .ret State.reset = some (.stackUnderflow, 0x200) ∧
    handlerFault (.call 0x300#12) (withStack 15 0x200#16) = none ∧
    handlerFault (.call 0x300#12) (withStack 16 0x200#16) = some (.stackOverflow, 0x200) ∧
    handlerFault (.bcd 0x0#4) (State.reset.setI 0xFFD#16) = none ∧
    handlerFault (.bcd 0x0#4) (State.reset.setI 0x1234#16) = some (.memBounds, 0x1234) ∧
    handlerFault (.draw 0x0#4 0x1#4 0x0#4) (State.reset.setI 0xFFFF#16) = none ∧
    handlerFault (.draw 0x0#4 0x1#4 0x2#4) (State.reset.setI 0xFFF#16) = some (.memBounds, 0x1000) ∧
    handlerFault (.skipKey 0x5#4) (State.reset.setV 0x5#4 0x0F#8) = none ∧
    handlerFault (.skipKey 0x5#4) (State.reset.setV 0x5#4 0x10#8) = some (.keyIndex, 0x10) := by decide

/-- After a CALL, with the return address live and a byte of memory listed. -/
def inSubroutine : State := place 0x300#16 0x00EE#16 (withStack 1 0x200#16)

theorem inSubroutine_invariant : Invariant inSubroutine where
  mem := by decide
  pc := by decide
  stack := by
    intro k h _
    simp [inSubroutine, place, State.withFetchWord, withStack]
  halted := by decide

theorem witness_StepKeepsInvariant : Invariant inSubroutine ∧ ∃ t, step inSubroutine = .next t :=
  ⟨inSubroutine_invariant, _, rfl⟩

theorem witness_StepKeepsFaultRecord : FaultRecordOk inSubroutine ∧ ∃ t, step inSubroutine = .next t :=
  ⟨⟨rfl, rfl⟩, _, rfl⟩

/-- One of each host operation. -/
theorem witness_HostOperationsKeepInvariant :
    Invariant inSubroutine ∧ (∃ t, hostOp .reset inSubroutine = .next t) ∧
    (∃ t, hostOp (.load [0x12#8, 0x00#8]) inSubroutine = .next t) ∧
    (∃ t, hostOp (.cycle 0x0001#16 0x00#8) inSubroutine = .next t) ∧
    (∃ t, hostOp .displayAck inSubroutine = .next t) ∧ (∃ t, hostOp .observe inSubroutine = .next t) :=
  ⟨inSubroutine_invariant, ⟨_, rfl⟩, ⟨_, rfl⟩, ⟨_, rfl⟩, ⟨_, rfl⟩, ⟨_, rfl⟩⟩

/-- Reset and Load of the end-of-program loop, one Cycle, and then a second Reset. -/
theorem witness_HostOperationsKeepInvariant_sequence :
    legalHostOps [.reset, .load [0x12#8, 0x00#8], .cycle 0x0000#16 0x00#8, .displayAck, .observe, .reset] = true ∧
    legalHostOps [.reset] = true := by decide

theorem witness_IndexAndStackWriters :
    (∃ t, exec (.setIndex 0xFFF#12) State.reset = .next t ∧ t.i ≠ State.reset.i) ∧
    (∃ t, exec (.call 0x300#12) State.reset = .next t ∧ t.stack ≠ State.reset.stack ∧ t.sp ≠ State.reset.sp) :=
  ⟨⟨_, rfl, by decide⟩, ⟨_, rfl, by decide, by decide⟩⟩

theorem witness_DisplayAndTimerWriters :
    (∃ t, exec (.setDelay 0x3#4) (State.reset.setV 0x3#4 0x05#8) = .next t ∧ t.dt ≠ State.reset.dt) ∧
    (∃ t, exec (.setSound 0x3#4) (State.reset.setV 0x3#4 0x05#8) = .next t ∧ t.st ≠ State.reset.st) ∧
    (∃ t, exec (.draw 0x0#4 0x1#4 0x1#4) State.reset = .next t ∧
      Framebuffer.pixel t.fb 0 0 ≠ Framebuffer.pixel State.reset.fb 0 0 ∧
      t.drawPending ≠ State.reset.drawPending) :=
  ⟨⟨_, rfl, by decide⟩, ⟨_, rfl, by decide⟩,
    ⟨_, State.withRange_ok (s := State.reset) (n := (0x1#4).toNat) (by decide), by decide, by decide⟩⟩

theorem witness_MemoryAndCycleRecordWriters :
    ∃ t, exec (.bcd 0x3#4) ((State.reset.setV 0x3#4 0x05#8).setI 0x300#16) = .next t ∧
      t.mem ≠ ((State.reset.setV 0x3#4 0x05#8).setI 0x300#16).mem :=
  ⟨_, State.withRange_ok (s := (State.reset.setV 0x3#4 0x05#8).setI 0x300#16) (n := 3) (by decide), by decide⟩

theorem witness_LoadPlacesTheProgram :
    ([] : List Byte).length ≤ 3584 ∧ (List.replicate 3584 0xAB#8).length ≤ 3584 :=
  ⟨Nat.zero_le _, Nat.le_of_eq List.length_replicate⟩

theorem witness_OversizedLoadChangesNothing : 3584 < (List.replicate 3585 0xAB#8).length :=
  Nat.lt_of_lt_of_eq (by decide) List.length_replicate.symm

end Sys2Proof.Tests
end

section
/-!
The decoder's fields as numbers (spec/30_encoding.md R61, R62, R64), and the obligation assembled from them.
-/

namespace Sys2Proof

/-! ### The raw word -/

/-- R61: the first byte stands above the second. -/
theorem wordOfBytes_toNat (hi lo : Byte) : (wordOfBytes hi lo).toNat = hi.toNat * 256 + lo.toNat := by
  have hlo : lo.toNat < 2 ^ 8 := lo.isLt
  rw [wordOfBytes, BitVec.toNat_append, ← Nat.shiftLeft_add_eq_or_of_lt hlo, Nat.shiftLeft_eq]

@[simp] theorem decodeBytes_raw_toNat (hi lo : Byte) :
    (decodeBytes hi lo).raw.toNat = hi.toNat * 256 + lo.toNat :=
  wordOfBytes_toNat hi lo

/-! ### The nibbles of a byte -/

theorem Byte.highNibble_toNat (b : Byte) : (b.extractLsb' 4 4).toNat = b.toNat / 16 := by
  have hb : b.toNat < 256 := b.isLt
  rw [BitVec.extractLsb'_toNat, Nat.shiftRight_eq_div_pow]
  omega

theorem Byte.lowNibble_toNat (b : Byte) : (b.extractLsb' 0 4).toNat = b.toNat % 16 :=
  BitVec.extractLsb'_toNat ..

@[simp] theorem decodeBytes_n0_toNat (hi lo : Byte) : (decodeBytes hi lo).n0.toNat = hi.toNat / 16 :=
  Byte.highNibble_toNat hi

@[simp] theorem decodeBytes_n1_toNat (hi lo : Byte) : (decodeBytes hi lo).n1.toNat = hi.toNat % 16 :=
  Byte.lowNibble_toNat hi

@[simp] theorem decodeBytes_n2_toNat (hi lo : Byte) : (decodeBytes hi lo).n2.toNat = lo.toNat / 16 :=
  Byte.highNibble_toNat lo

@[simp] theorem decodeBytes_n3_toNat (hi lo : Byte) : (decodeBytes hi lo).n3.toNat = lo.toNat % 16 :=
  Byte.lowNibble_toNat lo

/-! ### The operand fields of a descriptor -/

theorem Descriptor.nn_toNat (d : Descriptor) : d.nn.toNat = d.raw.toNat % 256 :=
  BitVec.extractLsb'_toNat ..

theorem Descriptor.nnn_toNat (d : Descriptor) : d.nnn.toNat = d.raw.toNat % 4096 :=
  BitVec.extractLsb'_toNat ..

/-- R64: NN is the second byte. -/
@[simp] theorem decodeBytes_nn_toNat (hi lo : Byte) : (decodeBytes hi lo).nn.toNat = lo.toNat := by
  have hlo : lo.toNat < 256 := lo.isLt
  rw [Descriptor.nn_toNat, decodeBytes_raw_toNat]
  omega

/-- R64: NNN is the low nibble of the first byte above the second byte. -/
@[simp] theorem decodeBytes_nnn_toNat (hi lo : Byte) :
    (decodeBytes hi lo).nnn.toNat = (hi.toNat % 16) * 256 + lo.toNat := by
  have hlo : lo.toNat < 256 := lo.isLt
  rw [Descriptor.nnn_toNat, decodeBytes_raw_toNat]
  omega

/-! ### The match predicate -/

/-- R62: all 16 bits are compared. -/
theorem Descriptor.fits_iff (d : Descriptor) (mask pattern : Word) :
    d.fits mask pattern = true ↔ d.raw &&& mask = pattern :=
  beq_iff_eq

/-! ### The obligation -/

/-- Settles O1: each clause is the lemma above about that field of the descriptor. -/
theorem decoderSplitsFields : Obligations.DecoderSplitsFields := fun hi lo =>
  ⟨decodeBytes_raw_toNat hi lo, decodeBytes_n0_toNat hi lo, decodeBytes_n1_toNat hi lo,
    decodeBytes_n2_toNat hi lo, decodeBytes_n3_toNat hi lo, decodeBytes_nn_toNat hi lo,
    decodeBytes_nnn_toNat hi lo, (decodeBytes hi lo).fits_iff⟩

end Sys2Proof
end

section
/-!
The words of format A as numbers and their decoding (spec/30_encoding.md R64 to R67), and the unconditional transfers of
control (spec/41_flow.md R111, R113).
-/

namespace Sys2Proof

/-! ### Decoding a word by the row it fits -/

/-- R43, R61: the bytes of a word, put together again, are the word. -/
theorem wordOfBytes_hiByte_loByte (w : Word) : wordOfBytes (hiByte w) (loByte w) = w := by
  have hw : w.toNat < 65536 := w.isLt
  apply BitVec.eq_of_toNat_eq
  rw [wordOfBytes_toNat, hiByte, loByte, BitVec.extractLsb'_toNat, BitVec.extractLsb'_toNat,
    Nat.shiftRight_eq_div_pow]
  omega

/-- The descriptor of a word carries the word itself (R61). -/
theorem decodeBytes_raw (w : Word) : (decodeBytes (hiByte w) (loByte w)).raw = w :=
  wordOfBytes_hiByte_loByte w

/-- A word decodes by the row of the table it fits (R67, R68). -/
theorem decodeWord_of_fits {w : Word} {r : Row} (hr : r ∈ dispatchTable) (hf : w &&& r.mask = r.pattern) :
    decodeWord w = .ok (r.build (decodeBytes (hiByte w) (loByte w))) :=
  dispatch_of_fits hr (by rw [decodeBytes_raw, hf])

/-! ### Words of format A -/

theorem encodeAddr_toNat (a : Nibble) (nnn : Addr12) :
    (encodeAddr a nnn).toNat = a.toNat * 4096 + nnn.toNat := by
  have hn : nnn.toNat < 2 ^ 12 := nnn.isLt
  rw [encodeAddr, BitVec.toNat_append, ← Nat.shiftLeft_add_eq_or_of_lt hn, Nat.shiftLeft_eq]

/-- A word of format A as the sum of its digit's place value and `NNN`. -/
theorem encodeAddr_eq_ofNat (a : Nibble) (nnn : Addr12) :
    encodeAddr a nnn = BitVec.ofNat 16 (a.toNat * 4096 + nnn.toNat) := by
  rw [← encodeAddr_toNat, BitVec.ofNat_toNat, BitVec.setWidth_eq]

/-- R64: the field NNN of a word of format A is the operand it was made from. -/
theorem decodeBytes_nnn_encodeAddr (a : Nibble) (nnn : Addr12) :
    (decodeBytes (hiByte (encodeAddr a nnn)) (loByte (encodeAddr a nnn))).nnn = nnn := by
  have hn : nnn.toNat < 4096 := nnn.isLt
  apply BitVec.eq_of_toNat_eq
  rw [Descriptor.nnn_toNat, decodeBytes_raw, encodeAddr_toNat]
  omega

/-- A word of format A decodes by the row of its digit, with its own `NNN` (R66, R67). -/
theorem decodeWord_encodeAddr {a : Nibble} {build : Addr12 → Instr}
    (hr : ⟨0xF000#16, encodeAddr a 0#12, fun d => build d.nnn⟩ ∈ dispatchTable) (nnn : Addr12) :
    decodeWord (encodeAddr a nnn) = .ok (build nnn) :=
  calc decodeWord (encodeAddr a nnn)
    _ = .ok (build (decodeBytes (hiByte (encodeAddr a nnn)) (loByte (encodeAddr a nnn))).nnn) :=
      decodeWord_of_fits hr (Laws.EncodesRow.mask_address a nnn)
    _ = .ok (build nnn) := by rw [decodeBytes_nnn_encodeAddr]

theorem decodeWord_jump (nnn : Addr12) :
    decodeWord (BitVec.ofNat 16 (0x1000 + nnn.toNat)) = .ok (.jump nnn) := by
  have row3 : ⟨0xF000#16, encodeAddr 0x1#4 0#12, fun d => .jump d.nnn⟩ ∈ dispatchTable :=
    List.mem_of_getElem? (i := 2) rfl
  simpa [encodeAddr_eq_ofNat] using decodeWord_encodeAddr row3 nnn

theorem decodeWord_jumpPlus (nnn : Addr12) :
    decodeWord (BitVec.ofNat 16 (0xB000 + nnn.toNat)) = .ok (.jumpPlus nnn) := by
  have row21 : ⟨0xF000#16, encodeAddr 0xB#4 0#12, fun d => .jumpPlus d.nnn⟩ ∈ dispatchTable :=
    List.mem_of_getElem? (i := 20) rfl
  simpa [encodeAddr_eq_ofNat] using decodeWord_encodeAddr row21 nnn

namespace Machine

/-! ### The zero-extended operands (R65) -/

@[simp] theorem zextAddr_toNat (nnn : Addr12) : (zextAddr nnn).toNat = nnn.toNat :=
  BitVec.toNat_setWidth_of_le (by decide)

@[simp] theorem zextByte_toNat (b : Byte) : (zextByte b).toNat = b.toNat :=
  BitVec.toNat_setWidth_of_le (by decide)

/-- R113: the largest sum is 0xFFF + 0xFF = 0x10FE, so 16 bits hold it unreduced. -/
theorem zextAddr_add_zextByte_toNat (nnn : Addr12) (b : Byte) :
    (zextAddr nnn + zextByte b).toNat = nnn.toNat + b.toNat := by
  have hn : nnn.toNat < 4096 := nnn.isLt
  have hb : b.toNat < 256 := b.isLt
  rw [BitVec.toNat_add, zextAddr_toNat, zextByte_toNat]
  omega

/-! ### A transfer of control writes `pc` alone -/

theorem sameMemory_setPc (s : State) (a : Word) : SameMemory s (s.setPc a) :=
  State.readByte_congr (s.setPc_mem a)

theorem State.setPc_frame (s : State) (a : Word) : s.setPc a = { s with pc := (s.setPc a).pc } := rfl

theorem exec_jump (nnn : Addr12) (s : State) : exec (.jump nnn) s = .next (s.setPc (zextAddr nnn)) := rfl

theorem exec_jumpPlus (nnn : Addr12) (s : State) :
    exec (.jumpPlus nnn) s = .next (s.setPc (zextAddr nnn + zextByte (s.getV 0#4))) := rfl

/-! ### The obligations -/

/-- Settles O18: the word is row 3's, and the target is `NNN` zero-extended. -/
theorem jumpLoadsTarget : Obligations.JumpLoadsTarget := fun nnn s =>
  ⟨decodeWord_jump nnn, _, exec_jump nnn s, zextAddr_toNat nnn, s.setPc_frame _, sameMemory_setPc s _⟩

/-- Settles O19: the word is row 21's, and the sum of the zero-extended operands does not wrap. -/
theorem jumpPlusAddsV0 : Obligations.JumpPlusAddsV0 := fun nnn s =>
  ⟨decodeWord_jumpPlus nnn, _, exec_jumpPlus nnn s, zextAddr_add_zextByte_toNat nnn _, s.setPc_frame _,
    sameMemory_setPc s _⟩

end Machine

end Sys2Proof
end

section
/-!
The words of format I as numbers and their decoding (spec/30_encoding.md R64 to R67), and the instructions SET and ADD_IMM
(spec/42_alu.md R130, R131).
-/

namespace Sys2Proof

/-! ### Words of format I -/

theorem encodeImm_toNat (a : Nibble) (x : RegIdx) (nn : Byte) :
    (encodeImm a x nn).toNat = a.toNat * 4096 + x.toNat * 256 + nn.toNat := by
  have hx : x.toNat < 2 ^ 4 := x.isLt
  have hnn : nn.toNat < 2 ^ 8 := nn.isLt
  rw [encodeImm, BitVec.toNat_append, ← Nat.shiftLeft_add_eq_or_of_lt hnn, Nat.shiftLeft_eq,
    BitVec.toNat_append, ← Nat.shiftLeft_add_eq_or_of_lt hx, Nat.shiftLeft_eq]
  omega

/-- A word of format I as the sum of the place values of its digit, `X` and `NN`. -/
theorem encodeImm_eq_ofNat (a : Nibble) (x : RegIdx) (nn : Byte) :
    encodeImm a x nn = BitVec.ofNat 16 (a.toNat * 4096 + x.toNat * 256 + nn.toNat) := by
  rw [← encodeImm_toNat, BitVec.ofNat_toNat, BitVec.setWidth_eq]

theorem hiByte_toNat (w : Word) : (hiByte w).toNat = w.toNat / 256 := by
  have hw : w.toNat < 65536 := w.isLt
  rw [hiByte, BitVec.extractLsb'_toNat, Nat.shiftRight_eq_div_pow]
  omega

/-- R64: the field X of a word of format I is the register it was made from. -/
theorem decodeBytes_n1_encodeImm (a : Nibble) (x : RegIdx) (nn : Byte) :
    (decodeBytes (hiByte (encodeImm a x nn)) (loByte (encodeImm a x nn))).n1 = x := by
  have hx : x.toNat < 16 := x.isLt
  have hnn : nn.toNat < 256 := nn.isLt
  apply BitVec.eq_of_toNat_eq
  rw [decodeBytes_n1_toNat, hiByte_toNat, encodeImm_toNat]
  omega

/-- R64: the field NN of a word of format I is the immediate it was made from. -/
theorem decodeBytes_nn_encodeImm (a : Nibble) (x : RegIdx) (nn : Byte) :
    (decodeBytes (hiByte (encodeImm a x nn)) (loByte (encodeImm a x nn))).nn = nn := by
  have hnn : nn.toNat < 256 := nn.isLt
  apply BitVec.eq_of_toNat_eq
  rw [Descriptor.nn_toNat, decodeBytes_raw, encodeImm_toNat]
  omega

/-- A word of format I decodes by the row of its digit, with its own `X` and `NN` (R66, R67). -/
theorem decodeWord_encodeImm {a : Nibble} {build : RegIdx → Byte → Instr}
    (hr : ⟨0xF000#16, encodeAddr a 0#12, fun d => build d.n1 d.nn⟩ ∈ dispatchTable) (x : RegIdx) (nn : Byte) :
    decodeWord (encodeImm a x nn) = .ok (build x nn) := by
  rw [decodeWord_of_fits hr (Laws.EncodesRow.mask_immediate a x nn)]
  dsimp only
  rw [decodeBytes_n1_encodeImm, decodeBytes_nn_encodeImm]

theorem decodeWord_setImm (x : RegIdx) (nn : Byte) :
    decodeWord (BitVec.ofNat 16 (0x6000 + x.toNat * 256 + nn.toNat)) = .ok (.setImm x nn) := by
  have row8 : ⟨0xF000#16, encodeAddr 0x6#4 0#12, fun d => .setImm d.n1 d.nn⟩ ∈ dispatchTable :=
    List.mem_of_getElem? (i := 7) rfl
  simpa [encodeImm_eq_ofNat] using decodeWord_encodeImm row8 x nn

theorem decodeWord_addImm (x : RegIdx) (nn : Byte) :
    decodeWord (BitVec.ofNat 16 (0x7000 + x.toNat * 256 + nn.toNat)) = .ok (.addImm x nn) := by
  have row9 : ⟨0xF000#16, encodeAddr 0x7#4 0#12, fun d => .addImm d.n1 d.nn⟩ ∈ dispatchTable :=
    List.mem_of_getElem? (i := 8) rfl
  simpa [encodeImm_eq_ofNat] using decodeWord_encodeImm row9 x nn

namespace Machine

/-! ### A write of one register that passes the instruction -/

theorem State.getV_setV_advance (s : State) (x : RegIdx) (b : Byte) (y : RegIdx) :
    (s.setV x b).advance.getV y = if y = x then b else s.getV y := by
  rw [State.getV_advance, State.getV_setV]

theorem State.setV_advance_frame (s : State) (x : RegIdx) (b : Byte) :
    (s.setV x b).advance = { s with v := (s.setV x b).advance.v, pc := s.pc + 2#16 } := rfl

theorem sameMemory_setV_advance (s : State) (x : RegIdx) (b : Byte) : SameMemory s (s.setV x b).advance :=
  State.readByte_congr (by rw [State.advance_mem, State.setV_mem])

theorem exec_setImm (x : RegIdx) (nn : Byte) (s : State) :
    exec (.setImm x nn) s = .next (s.setV x nn).advance := rfl

theorem exec_addImm (x : RegIdx) (nn : Byte) (s : State) :
    exec (.addImm x nn) s = .next (s.setV x (addMod (s.getV x) nn)).advance := rfl

/-- R131: the sum is reduced modulo 256. -/
@[simp] theorem addMod_toNat (a b : Byte) : (addMod a b).toNat = (a.toNat + b.toNat) % 256 := by
  rw [addMod, BitVec.toNat_ofNat]
  exact Nat.mod_mod ..

/-! ### The obligations -/

/-- Settles O24: the word is row 8's, and the one register written is `Vx`. -/
theorem setLoadsImmediate : Obligations.SetLoadsImmediate := fun x nn s =>
  ⟨decodeWord_setImm x nn, _, exec_setImm x nn s, s.getV_setV_advance x nn, s.setV_advance_frame x nn,
    sameMemory_setV_advance s x nn⟩

/-- Settles O25: the word is row 9's, and the one register written is `Vx`, so VF changes only as the destination. -/
theorem addImmWrapsWithoutFlag : Obligations.AddImmWrapsWithoutFlag := fun x nn s =>
  ⟨decodeWord_addImm x nn, _, exec_addImm x nn s,
    fun y => by rw [State.getV_setV_advance, apply_ite BitVec.toNat, addMod_toNat],
    s.setV_advance_frame x _, sameMemory_setV_advance s x _⟩

end Machine

end Sys2Proof
end

section
/-!
The words of format X as numbers and their decoding (spec/30_encoding.md R64 to R67), and the instructions SET_INDEX and
ADD_INDEX (spec/43_index_memory.md R160, R161).
-/

namespace Sys2Proof

/-! ### Words of format X -/

/-- A word of format X is one of format I whose `NN` is the two matched digits (R66). -/
theorem encodeOneReg_eq_encodeImm (a : Nibble) (x : RegIdx) (low : Byte) :
    encodeOneReg a x low = encodeImm a x low := rfl

/-- A word of format X decodes by the row of its matched digits, with its own `X` (R66, R67). -/
theorem decodeWord_encodeOneReg {a : Nibble} {low : Byte} {build : RegIdx → Instr}
    (hr : ⟨0xF0FF#16, encodeOneReg a 0#4 low, fun d => build d.n1⟩ ∈ dispatchTable) (x : RegIdx) :
    decodeWord (encodeOneReg a x low) = .ok (build x) := by
  rw [decodeWord_of_fits hr (Laws.EncodesRow.mask_oneReg a x low)]
  dsimp only
  rw [encodeOneReg_eq_encodeImm, decodeBytes_n1_encodeImm]

/-- The place values of a word of format X, the register's last. -/
theorem encodeOneReg_eq_ofNat (a : Nibble) (x : RegIdx) (low : Byte) :
    encodeOneReg a x low = BitVec.ofNat 16 (a.toNat * 4096 + low.toNat + x.toNat * 256) := by
  rw [encodeOneReg_eq_encodeImm, encodeImm_eq_ofNat, Nat.add_right_comm]

/-! ### The words of SET_INDEX and ADD_INDEX -/

theorem decodeWord_setIndex (nnn : Addr12) :
    decodeWord (BitVec.ofNat 16 (0xA000 + nnn.toNat)) = .ok (.setIndex nnn) := by
  have row20 : ⟨0xF000#16, encodeAddr 0xA#4 0#12, fun d => .setIndex d.nnn⟩ ∈ dispatchTable :=
    List.mem_of_getElem? (i := 19) rfl
  simpa [encodeAddr_eq_ofNat] using decodeWord_encodeAddr row20 nnn

theorem decodeWord_addIndex (x : RegIdx) :
    decodeWord (BitVec.ofNat 16 (0xF01E + x.toNat * 256)) = .ok (.addIndex x) := by
  have row30 : ⟨0xF0FF#16, encodeOneReg 0xF#4 0#4 0x1E#8, fun d => .addIndex d.n1⟩ ∈ dispatchTable :=
    List.mem_of_getElem? (i := 29) rfl
  simpa [encodeOneReg_eq_ofNat] using decodeWord_encodeOneReg row30 x

namespace Machine

/-! ### A write of `I` that passes the instruction -/

theorem State.setI_advance_frame (s : State) (w : Word) :
    (s.setI w).advance = { s with i := (s.setI w).advance.i, pc := s.pc + 2#16 } := rfl

theorem sameMemory_setI_advance (s : State) (w : Word) : SameMemory s (s.setI w).advance :=
  State.readByte_congr (by rw [State.advance_mem, State.setI_mem])

theorem exec_setIndex (nnn : Addr12) (s : State) :
    exec (.setIndex nnn) s = .next (s.setI (zextAddr nnn)).advance := rfl

theorem exec_addIndex (x : RegIdx) (s : State) :
    exec (.addIndex x) s = .next (s.setI (s.i + zextByte (s.getV x))).advance := rfl

/-- R161: the sum wraps at 16 bits, not at the end of memory. -/
theorem add_zextByte_toNat (w : Word) (b : Byte) :
    (w + zextByte b).toNat = (w.toNat + b.toNat) % 65536 := by
  rw [BitVec.toNat_add, zextByte_toNat]

/-! ### The obligations -/

/-- Settles O34: the word is row 20's, and beside `pc` only `I` is written, with `NNN` zero-extended. -/
theorem setIndexLoadsAddress : Obligations.SetIndexLoadsAddress := fun nnn s =>
  ⟨decodeWord_setIndex nnn, _, exec_setIndex nnn s, zextAddr_toNat nnn, s.setI_advance_frame _,
    sameMemory_setI_advance s _⟩

/-- Settles O35: the word is row 30's, and beside `pc` only `I` is written, so no sum sets VF or a fault. -/
theorem addIndexWraps16 : Obligations.AddIndexWraps16 := fun x s =>
  ⟨decodeWord_addIndex x, _, exec_addIndex x s, add_zextByte_toNat s.i _, s.setI_advance_frame _,
    sameMemory_setI_advance s _⟩

end Machine

end Sys2Proof
end

section
/-!
The host operation Load on a program longer than memory holds from 0x200 (spec/70_reset_and_hazards.md R243).
-/

namespace Sys2Proof

theorem romFits_eq_false_iff (bytes : List Byte) : romFits bytes = false ↔ Config.maxRom < bytes.length := by
  rw [romFits, decide_eq_false_iff_not, Nat.not_le]

namespace Machine

/-- R243: the size is checked before anything is written. -/
theorem hostLoad_of_not_fits {bytes : List Byte} (h : romFits bytes = false) (s : State) :
    hostLoad bytes s = .error .tooLong := by
  rw [hostLoad, h, if_neg Bool.false_ne_true]

/-- A failed Load hands the host LOAD_ERROR with the state it was given. -/
theorem hostOp_load_of_error {bytes : List Byte} {s : State} {e : LoadError} (h : hostLoad bytes s = .error e) :
    hostOp (.load bytes) s = .next (s, .loadError) := by
  rw [hostOp, h]

/-- Settles O58: a program above `MAX_ROM` bytes does not fit, so the operation fails on the state it was given. -/
theorem oversizedLoadChangesNothing : Obligations.OversizedLoadChangesNothing := by
  intro bytes s hlong
  have hfail : hostLoad bytes s = .error .tooLong :=
    hostLoad_of_not_fits ((romFits_eq_false_iff bytes).mpr hlong) s
  exact ⟨hfail, hostOp_load_of_error hfail⟩

end Machine

end Sys2Proof
end

section
/-!
Encoding and decoding are inverse (spec/30_encoding.md R66 to R69): the words of format R and D, decoding the word of an
instruction, encoding what a word decodes to, and the disjointness of the rows.
-/

namespace Sys2Proof

/-! ### Words of four nibbles -/

theorem wordOfNibbles_toNat (a b c d : Nibble) :
    (wordOfNibbles a b c d).toNat = a.toNat * 4096 + b.toNat * 256 + c.toNat * 16 + d.toNat := by
  have hb : b.toNat < 2 ^ 4 := b.isLt
  have hc : c.toNat < 2 ^ 4 := c.isLt
  have hd : d.toNat < 2 ^ 4 := d.isLt
  rw [wordOfNibbles, BitVec.toNat_append, ← Nat.shiftLeft_add_eq_or_of_lt hd, Nat.shiftLeft_eq,
    BitVec.toNat_append, ← Nat.shiftLeft_add_eq_or_of_lt hc, Nat.shiftLeft_eq,
    BitVec.toNat_append, ← Nat.shiftLeft_add_eq_or_of_lt hb, Nat.shiftLeft_eq]
  omega

theorem loByte_toNat (w : Word) : (loByte w).toNat = w.toNat % 256 :=
  BitVec.extractLsb'_toNat ..

/-- R61: the decoder's nibbles of a word of four nibbles are those it was made from. -/
theorem decodeBytes_n1_wordOfNibbles (a b c d : Nibble) :
    (decodeBytes (hiByte (wordOfNibbles a b c d)) (loByte (wordOfNibbles a b c d))).n1 = b := by
  have hb : b.toNat < 16 := b.isLt
  have hc : c.toNat < 16 := c.isLt
  have hd : d.toNat < 16 := d.isLt
  apply BitVec.eq_of_toNat_eq
  rw [decodeBytes_n1_toNat, hiByte_toNat, wordOfNibbles_toNat]
  omega

theorem decodeBytes_n2_wordOfNibbles (a b c d : Nibble) :
    (decodeBytes (hiByte (wordOfNibbles a b c d)) (loByte (wordOfNibbles a b c d))).n2 = c := by
  have hc : c.toNat < 16 := c.isLt
  have hd : d.toNat < 16 := d.isLt
  apply BitVec.eq_of_toNat_eq
  rw [decodeBytes_n2_toNat, loByte_toNat, wordOfNibbles_toNat]
  omega

theorem decodeBytes_n3_wordOfNibbles (a b c d : Nibble) :
    (decodeBytes (hiByte (wordOfNibbles a b c d)) (loByte (wordOfNibbles a b c d))).n3 = d := by
  have hd : d.toNat < 16 := d.isLt
  apply BitVec.eq_of_toNat_eq
  rw [decodeBytes_n3_toNat, loByte_toNat, wordOfNibbles_toNat]
  omega

/-- A word of format R decodes by the row of its two matched digits, with its own `X` and `Y` (R66, R67). -/
theorem decodeWord_registers {a n : Nibble} {build : RegIdx → RegIdx → Instr}
    (hr : ⟨0xF00F#16, wordOfNibbles a 0#4 0#4 n, fun d => build d.n1 d.n2⟩ ∈ dispatchTable) (x y : RegIdx) :
    decodeWord (wordOfNibbles a x y n) = .ok (build x y) := by
  rw [decodeWord_of_fits hr (Laws.EncodesRow.mask_registers a x y n)]
  dsimp only
  rw [decodeBytes_n1_wordOfNibbles, decodeBytes_n2_wordOfNibbles]

/-- A word of format D decodes by the row of its digit, with its own `X`, `Y` and `N` (R66, R67). -/
theorem decodeWord_draw (x y : RegIdx) (n : Nibble) :
    decodeWord (wordOfNibbles 0xD#4 x y n) = .ok (.draw x y n) := by
  have row23 : ⟨0xF000#16, wordOfNibbles 0xD#4 0#4 0#4 0#4, fun d => .draw d.n1 d.n2 d.n3⟩ ∈ dispatchTable :=
    List.mem_of_getElem? (i := 22) rfl
  rw [decodeWord_of_fits row23 (Laws.EncodesRow.mask_draw 0xD#4 x y n)]
  dsimp only
  rw [decodeBytes_n1_wordOfNibbles, decodeBytes_n2_wordOfNibbles, decodeBytes_n3_wordOfNibbles]

/-! ### Decoding the word of an instruction -/

/-- The row of R67 at a position of the table. -/
theorem row_mem {r : Row} (k : Nat) (h : dispatchTable[k]? = some r) : r ∈ dispatchTable :=
  List.mem_of_getElem? h

/-- Each instruction's word fits the instruction's row, whose fields are its operands. -/
theorem decodeWord_encode (i : Instr) : decodeWord (encode i) = .ok i := by
  cases i with
  | clearFb => exact decodeWord_of_fits (row_mem 0 rfl) rfl
  | ret => exact decodeWord_of_fits (row_mem 1 rfl) rfl
  | jump nnn => exact decodeWord_encodeAddr (row_mem 2 rfl) nnn
  | call nnn => exact decodeWord_encodeAddr (row_mem 3 rfl) nnn
  | skipEqImm x nn => exact decodeWord_encodeImm (row_mem 4 rfl) x nn
  | skipNeqImm x nn => exact decodeWord_encodeImm (row_mem 5 rfl) x nn
  | skipEqReg x y => exact decodeWord_registers (row_mem 6 rfl) x y
  | setImm x nn => exact decodeWord_encodeImm (row_mem 7 rfl) x nn
  | addImm x nn => exact decodeWord_encodeImm (row_mem 8 rfl) x nn
  | setReg x y => exact decodeWord_registers (row_mem 9 rfl) x y
  | orReg x y => exact decodeWord_registers (row_mem 10 rfl) x y
  | andReg x y => exact decodeWord_registers (row_mem 11 rfl) x y
  | xorReg x y => exact decodeWord_registers (row_mem 12 rfl) x y
  | addReg x y => exact decodeWord_registers (row_mem 13 rfl) x y
  | subReg x y => exact decodeWord_registers (row_mem 14 rfl) x y
  | shr x y => exact decodeWord_registers (row_mem 15 rfl) x y
  | subn x y => exact decodeWord_registers (row_mem 16 rfl) x y
  | shl x y => exact decodeWord_registers (row_mem 17 rfl) x y
  | skipNeqReg x y => exact decodeWord_registers (row_mem 18 rfl) x y
  | setIndex nnn => exact decodeWord_encodeAddr (row_mem 19 rfl) nnn
  | jumpPlus nnn => exact decodeWord_encodeAddr (row_mem 20 rfl) nnn
  | random x nn => exact decodeWord_encodeImm (row_mem 21 rfl) x nn
  | draw x y n => exact decodeWord_draw x y n
  | skipKey x => exact decodeWord_encodeOneReg (row_mem 23 rfl) x
  | skipNotkey x => exact decodeWord_encodeOneReg (row_mem 24 rfl) x
  | getDelay x => exact decodeWord_encodeOneReg (row_mem 25 rfl) x
  | getKey x => exact decodeWord_encodeOneReg (row_mem 26 rfl) x
  | setDelay x => exact decodeWord_encodeOneReg (row_mem 27 rfl) x
  | setSound x => exact decodeWord_encodeOneReg (row_mem 28 rfl) x
  | addIndex x => exact decodeWord_encodeOneReg (row_mem 29 rfl) x
  | fontAddr x => exact decodeWord_encodeOneReg (row_mem 30 rfl) x
  | bcd x => exact decodeWord_encodeOneReg (row_mem 31 rfl) x
  | regDump x => exact decodeWord_encodeOneReg (row_mem 32 rfl) x
  | regLoad x => exact decodeWord_encodeOneReg (row_mem 33 rfl) x

/-- Every operand has its field's width, so no format asks for a check. -/
theorem Instr.wf_eq_true (i : Instr) : i.wf = true := by
  unfold Instr.wf
  cases i.format <;> rfl

/-- Settles O3: each word fits its instruction's row, and the fields of that row are the operands. -/
theorem decodeOfEncode : Obligations.DecodeOfEncode := fun i => ⟨i.wf_eq_true, decodeWord_encode i⟩

end Sys2Proof
end

section
/-!
Encoding what a word decodes to gives the word back (spec/30_encoding.md R66 to R69), and no word fits two rows (R68).
-/

namespace Sys2Proof

/-! ### A word is made of its own fields -/

theorem encodeAddr_fields (w : Word) :
    encodeAddr (decodeBytes (hiByte w) (loByte w)).n0 (decodeBytes (hiByte w) (loByte w)).nnn = w := by
  apply BitVec.eq_of_toNat_eq
  rw [encodeAddr_toNat, decodeBytes_n0_toNat, hiByte_toNat, Descriptor.nnn_toNat, decodeBytes_raw]
  omega

theorem encodeImm_fields (w : Word) :
    encodeImm (decodeBytes (hiByte w) (loByte w)).n0 (decodeBytes (hiByte w) (loByte w)).n1
      (decodeBytes (hiByte w) (loByte w)).nn = w := by
  apply BitVec.eq_of_toNat_eq
  rw [encodeImm_toNat, decodeBytes_n0_toNat, decodeBytes_n1_toNat, hiByte_toNat, Descriptor.nn_toNat, decodeBytes_raw]
  omega

theorem wordOfNibbles_fields (w : Word) :
    wordOfNibbles (decodeBytes (hiByte w) (loByte w)).n0 (decodeBytes (hiByte w) (loByte w)).n1
      (decodeBytes (hiByte w) (loByte w)).n2 (decodeBytes (hiByte w) (loByte w)).n3 = w := by
  apply BitVec.eq_of_toNat_eq
  rw [wordOfNibbles_toNat, decodeBytes_n0_toNat, decodeBytes_n1_toNat, decodeBytes_n2_toNat, decodeBytes_n3_toNat,
    hiByte_toNat, loByte_toNat]
  omega

/-! ### The matched digits of a word, as numbers -/

theorem and_F000_toNat (w : Word) : (w &&& 0xF000#16).toNat = w.toNat / 4096 * 4096 := by
  conv_lhs => rw [← encodeAddr_fields w]
  rw [Laws.EncodesRow.mask_address, encodeAddr_toNat, decodeBytes_n0_toNat, hiByte_toNat, BitVec.toNat_ofNat]
  omega

theorem and_F00F_toNat (w : Word) : (w &&& 0xF00F#16).toNat = w.toNat / 4096 * 4096 + w.toNat % 16 := by
  conv_lhs => rw [← wordOfNibbles_fields w]
  rw [Laws.EncodesRow.mask_registers, wordOfNibbles_toNat, decodeBytes_n0_toNat, decodeBytes_n3_toNat, hiByte_toNat,
    loByte_toNat, BitVec.toNat_ofNat]
  omega

theorem and_F0FF_toNat (w : Word) : (w &&& 0xF0FF#16).toNat = w.toNat / 4096 * 4096 + w.toNat % 256 := by
  conv_lhs => rw [← encodeImm_fields w, ← encodeOneReg_eq_encodeImm]
  rw [Laws.EncodesRow.mask_oneReg, encodeOneReg_eq_encodeImm, encodeImm_toNat, decodeBytes_n0_toNat, hiByte_toNat,
    Descriptor.nn_toNat, decodeBytes_raw, BitVec.toNat_ofNat]
  omega

theorem n0_toNat (w : Word) : (decodeBytes (hiByte w) (loByte w)).n0.toNat = w.toNat / 4096 := by
  rw [decodeBytes_n0_toNat, hiByte_toNat, Nat.div_div_eq_div_mul]

/-! ### Rows that drop no bit of a word -/

/-- The instruction a row makes of a word it matches has that word. -/
def Row.Faithful (r : Row) : Prop :=
  ∀ w : Word, w &&& r.mask = r.pattern → encode (r.build (decodeBytes (hiByte w) (loByte w))) = w

/-- A word that matches in its first digit alone has that digit. -/
theorem n0_of_and_F000 {w : Word} {a : Nibble} (hw : w &&& 0xF000#16 = encodeAddr a 0#12) :
    (decodeBytes (hiByte w) (loByte w)).n0 = a := by
  have h := congrArg BitVec.toNat hw
  rw [and_F000_toNat, encodeAddr_toNat, BitVec.toNat_ofNat] at h
  apply BitVec.eq_of_toNat_eq
  rw [n0_toNat]
  omega

/-- Format L: the mask leaves one word. -/
theorem Row.faithful_literal (i : Instr) : Row.Faithful ⟨0xFFFF#16, encode i, fun _ => i⟩ := by
  intro w hw
  rw [← BitVec.and_allOnes (x := w)]
  exact hw.symm

/-- Format A: the digit is fixed, and `NNN` is passed on. -/
theorem Row.faithful_address (a : Nibble) {build : Addr12 → Instr} (hb : ∀ nnn, encode (build nnn) = encodeAddr a nnn) :
    Row.Faithful ⟨0xF000#16, encodeAddr a 0#12, fun d => build d.nnn⟩ := by
  intro w hw
  dsimp only
  rw [hb, ← n0_of_and_F000 hw, encodeAddr_fields]

/-- Format I: the digit is fixed, and `X` and `NN` are passed on. -/
theorem Row.faithful_immediate (a : Nibble) {build : RegIdx → Byte → Instr}
    (hb : ∀ x nn, encode (build x nn) = encodeImm a x nn) :
    Row.Faithful ⟨0xF000#16, encodeAddr a 0#12, fun d => build d.n1 d.nn⟩ := by
  intro w hw
  dsimp only
  rw [hb, ← n0_of_and_F000 hw, encodeImm_fields]

/-- Format D: the digit is fixed, and `X`, `Y` and `N` are passed on. -/
theorem Row.faithful_draw : Row.Faithful ⟨0xF000#16, encodeAddr 0xD#4 0#12, fun d => .draw d.n1 d.n2 d.n3⟩ := by
  intro w hw
  calc wordOfNibbles 0xD#4 _ _ _
    _ = wordOfNibbles (decodeBytes (hiByte w) (loByte w)).n0 _ _ _ := by rw [n0_of_and_F000 hw]
    _ = w := wordOfNibbles_fields w

/-- Format R: two digits are fixed, and `X` and `Y` are passed on. -/
theorem Row.faithful_registers (a n : Nibble) {build : RegIdx → RegIdx → Instr}
    (hb : ∀ x y, encode (build x y) = wordOfNibbles a x y n) :
    Row.Faithful ⟨0xF00F#16, wordOfNibbles a 0#4 0#4 n, fun d => build d.n1 d.n2⟩ := by
  intro w hw
  have h := congrArg BitVec.toNat hw
  rw [and_F00F_toNat, wordOfNibbles_toNat, BitVec.toNat_ofNat] at h
  have hn : n.toNat < 16 := n.isLt
  have h0 : (decodeBytes (hiByte w) (loByte w)).n0 = a :=
    BitVec.eq_of_toNat_eq (by rw [n0_toNat]; omega)
  have h3 : (decodeBytes (hiByte w) (loByte w)).n3 = n :=
    BitVec.eq_of_toNat_eq (by rw [decodeBytes_n3_toNat, loByte_toNat]; omega)
  dsimp only
  rw [hb, ← h0, ← h3, wordOfNibbles_fields]

/-- Format X: three digits are fixed, and `X` is passed on. -/
theorem Row.faithful_oneReg (a : Nibble) (low : Byte) {build : RegIdx → Instr}
    (hb : ∀ x, encode (build x) = encodeOneReg a x low) :
    Row.Faithful ⟨0xF0FF#16, encodeOneReg a 0#4 low, fun d => build d.n1⟩ := by
  intro w hw
  have h := congrArg BitVec.toNat hw
  rw [and_F0FF_toNat, encodeOneReg_eq_encodeImm, encodeImm_toNat, BitVec.toNat_ofNat] at h
  have hlow : low.toNat < 256 := low.isLt
  have h0 : (decodeBytes (hiByte w) (loByte w)).n0 = a :=
    BitVec.eq_of_toNat_eq (by rw [n0_toNat]; omega)
  have hnn : (decodeBytes (hiByte w) (loByte w)).nn = low :=
    BitVec.eq_of_toNat_eq (by rw [decodeBytes_nn_toNat, loByte_toNat]; omega)
  dsimp only
  rw [hb, encodeOneReg_eq_encodeImm, ← h0, ← hnn, encodeImm_fields]

/-! ### The rows of the table -/

theorem dispatchRows1to9_faithful : ∀ r ∈ dispatchRows1to9, r.Faithful := by
  simp only [dispatchRows1to9, List.forall_mem_cons]
  exact ⟨Row.faithful_literal .clearFb, Row.faithful_literal .ret, Row.faithful_address 0x1#4 fun _ => rfl,
    Row.faithful_address 0x2#4 fun _ => rfl, Row.faithful_immediate 0x3#4 fun _ _ => rfl,
    Row.faithful_immediate 0x4#4 fun _ _ => rfl, Row.faithful_registers 0x5#4 0x0#4 fun _ _ => rfl,
    Row.faithful_immediate 0x6#4 fun _ _ => rfl, Row.faithful_immediate 0x7#4 fun _ _ => rfl, List.forall_mem_nil _⟩

theorem dispatchRows10to18_faithful : ∀ r ∈ dispatchRows10to18, r.Faithful := by
  simp only [dispatchRows10to18, List.forall_mem_cons]
  exact ⟨Row.faithful_registers 0x8#4 0x0#4 fun _ _ => rfl, Row.faithful_registers 0x8#4 0x1#4 fun _ _ => rfl,
    Row.faithful_registers 0x8#4 0x2#4 fun _ _ => rfl, Row.faithful_registers 0x8#4 0x3#4 fun _ _ => rfl,
    Row.faithful_registers 0x8#4 0x4#4 fun _ _ => rfl, Row.faithful_registers 0x8#4 0x5#4 fun _ _ => rfl,
    Row.faithful_registers 0x8#4 0x6#4 fun _ _ => rfl, Row.faithful_registers 0x8#4 0x7#4 fun _ _ => rfl,
    Row.faithful_registers 0x8#4 0xE#4 fun _ _ => rfl, List.forall_mem_nil _⟩

theorem dispatchRows19to25_faithful : ∀ r ∈ dispatchRows19to25, r.Faithful := by
  simp only [dispatchRows19to25, List.forall_mem_cons]
  exact ⟨Row.faithful_registers 0x9#4 0x0#4 fun _ _ => rfl, Row.faithful_address 0xA#4 fun _ => rfl,
    Row.faithful_address 0xB#4 fun _ => rfl, Row.faithful_immediate 0xC#4 fun _ _ => rfl, Row.faithful_draw,
    Row.faithful_oneReg 0xE#4 0x9E#8 fun _ => rfl, Row.faithful_oneReg 0xE#4 0xA1#8 fun _ => rfl,
    List.forall_mem_nil _⟩

theorem dispatchRows26to34_faithful : ∀ r ∈ dispatchRows26to34, r.Faithful := by
  simp only [dispatchRows26to34, List.forall_mem_cons]
  exact ⟨Row.faithful_oneReg 0xF#4 0x07#8 fun _ => rfl, Row.faithful_oneReg 0xF#4 0x0A#8 fun _ => rfl,
    Row.faithful_oneReg 0xF#4 0x15#8 fun _ => rfl, Row.faithful_oneReg 0xF#4 0x18#8 fun _ => rfl,
    Row.faithful_oneReg 0xF#4 0x1E#8 fun _ => rfl, Row.faithful_oneReg 0xF#4 0x29#8 fun _ => rfl,
    Row.faithful_oneReg 0xF#4 0x33#8 fun _ => rfl, Row.faithful_oneReg 0xF#4 0x55#8 fun _ => rfl,
    Row.faithful_oneReg 0xF#4 0x65#8 fun _ => rfl, List.forall_mem_nil _⟩

theorem dispatchTable_faithful : ∀ r ∈ dispatchTable, r.Faithful := by
  simp only [dispatchTable, List.forall_mem_append]
  exact ⟨⟨⟨dispatchRows1to9_faithful, dispatchRows10to18_faithful⟩, dispatchRows19to25_faithful⟩,
    dispatchRows26to34_faithful⟩

/-! ### Which words decode -/

/-- A word decodes by a row it matches (R67). -/
theorem exists_row_of_decodeWord {w : Word} {i : Instr} (h : decodeWord w = .ok i) :
    ∃ r ∈ dispatchTable, w &&& r.mask = r.pattern ∧ i = r.build (decodeBytes (hiByte w) (loByte w)) := by
  unfold decodeWord decode dispatch at h
  split at h
  · rename_i r hr
    have hfit := List.find?_some hr
    rw [Descriptor.fits_iff, decodeBytes_raw] at hfit
    exact ⟨r, List.mem_of_find?_eq_some hr, hfit, (Except.ok.inj h).symm⟩
  · cases h

theorem encode_of_decodeWord {w : Word} {i : Instr} (h : decodeWord w = .ok i) : encode i = w := by
  obtain ⟨r, hr, hfit, rfl⟩ := exists_row_of_decodeWord h
  exact dispatchTable_faithful r hr w hfit

/-- Settles O4: the row a word decodes by is faithful to it. -/
theorem encodeOfDecode : Obligations.EncodeOfDecode := fun _ _ => encode_of_decodeWord

/-- R68: where no two rows overlap, a descriptor fits at most one. -/
theorem countP_fits_le_one {t : List Row} (ht : t.Pairwise (fun r q => r.disjoint q = true)) (d : Descriptor) :
    t.countP (fun r => d.fits r.mask r.pattern) ≤ 1 := by
  induction t with
  | nil => exact Nat.zero_le 1
  | cons q t ih =>
    obtain ⟨hq, ht'⟩ := List.pairwise_cons.1 ht
    rw [List.countP_cons]
    split
    · next hfit =>
      have hnone : t.countP (fun r => d.fits r.mask r.pattern) = 0 :=
        List.countP_eq_zero.2 fun r hr hr' =>
          Row.not_both (hq r hr) d.raw ((d.fits_iff _ _).1 hfit) ((d.fits_iff _ _).1 hr')
      rw [hnone]
    · exact ih ht'

/-- Settles O5: the rows are pairwise disjoint (`dispatchTable_disjoint`). -/
theorem noWordFitsTwoRows : Obligations.NoWordFitsTwoRows :=
  ⟨rfl, fun _ _ => countP_fits_le_one dispatchTable_disjoint _⟩

/-- Settles O2: each is a closed run of the decoder. -/
theorem specWordsDecode : Obligations.SpecWordsDecode := by
  unfold Obligations.SpecWordsDecode
  decide

/-! ### Which words do not -/

/-- A word that matches no row is rejected under its class (R69, R71). -/
theorem decodeWord_error_iff {w : Word} {u : Unmatched} :
    decodeWord w = .error u ↔
      (∀ r ∈ dispatchTable, ¬ w &&& r.mask = r.pattern) ∧ unmatchedClass (decodeBytes (hiByte w) (loByte w)) = u := by
  unfold decodeWord decode dispatch
  split
  · next r hr =>
    have hfit := List.find?_some hr
    rw [Descriptor.fits_iff, decodeBytes_raw] at hfit
    exact iff_of_false nofun fun h => h.1 r (List.mem_of_find?_eq_some hr) hfit
  · next hnone =>
    have hno : ∀ r ∈ dispatchTable, ¬ w &&& r.mask = r.pattern := fun r hr hfit =>
      List.find?_eq_none.1 hnone r hr ((Descriptor.fits_iff _ _ _).2 (by rw [decodeBytes_raw, hfit]))
    rw [Except.error.injEq, and_iff_right hno]

end Sys2Proof
end

section
/-!
The unmatched words (spec/30_encoding.md R71): the row a word matches, as digits of the word.
-/

namespace Sys2Proof

/-! ### Matching, digit by digit -/

theorem and_FFFF_eq_iff (w p : Word) :
    w &&& 0xFFFF#16 = p ↔ w.toNat / 4096 = p.toNat / 4096 ∧ w.toNat % 4096 = p.toNat % 4096 := by
  rw [show (0xFFFF#16 : Word) = BitVec.allOnes 16 from rfl, BitVec.and_allOnes, ← BitVec.toNat_inj]
  omega

theorem and_F000_eq_iff (w p : Word) :
    w &&& 0xF000#16 = p ↔ w.toNat / 4096 = p.toNat / 4096 ∧ p.toNat % 4096 = 0 := by
  rw [← BitVec.toNat_inj, and_F000_toNat]
  omega

theorem and_F00F_eq_iff (w p : Word) :
    w &&& 0xF00F#16 = p ↔ w.toNat / 4096 = p.toNat / 4096 ∧ w.toNat % 16 = p.toNat % 4096 := by
  rw [← BitVec.toNat_inj, and_F00F_toNat]
  omega

theorem and_F0FF_eq_iff (w p : Word) :
    w &&& 0xF0FF#16 = p ↔ w.toNat / 4096 = p.toNat / 4096 ∧ w.toNat % 256 = p.toNat % 4096 := by
  rw [← BitVec.toNat_inj, and_F0FF_toNat]
  omega

/-- R71: the words no row matches, by their first digit. With that digit fixed, only its own rows are left. -/
theorem no_row_iff (w : Word) : (∀ r ∈ dispatchTable, ¬ w &&& r.mask = r.pattern) ↔
    (w.toNat < 0x1000 ∧ w.toNat ≠ 0x00E0 ∧ w.toNat ≠ 0x00EE) ∨
    (w.toNat / 4096 = 5 ∧ w.toNat % 16 ≠ 0) ∨
    (w.toNat / 4096 = 8 ∧ 8 ≤ w.toNat % 16 ∧ w.toNat % 16 ≠ 14) ∨
    (w.toNat / 4096 = 9 ∧ w.toNat % 16 ≠ 0) ∨
    (w.toNat / 4096 = 14 ∧ w.toNat % 256 ∉ [0x9E, 0xA1]) ∨
    (w.toNat / 4096 = 15 ∧ w.toNat % 256 ∉ [0x07, 0x0A, 0x15, 0x18, 0x1E, 0x29, 0x33, 0x55, 0x65]) := by
  have hw : w.toNat / 4096 < 16 := by have := w.isLt; omega
  simp only [dispatchTable, dispatchRows1to9, dispatchRows10to18, dispatchRows19to25, dispatchRows26to34,
    List.forall_mem_append, List.forall_mem_cons, and_FFFF_eq_iff, and_F000_eq_iff, and_F00F_eq_iff, and_F0FF_eq_iff]
  generalize hh : w.toNat / 4096 = h at *
  interval_cases h <;> simp <;> omega

/-- Settles O6: the first digit of a word no row matches is the one its class goes by. -/
theorem unmatchedWordsByClass : Obligations.UnmatchedWordsByClass := by
  intro w
  have hw : w.toNat / 4096 < 16 := by have := w.isLt; omega
  simp only [decodeWord_error_iff, no_row_iff, unmatchedClass, n0_toNat]
  generalize hh : w.toNat / 4096 = h at *
  interval_cases h <;> simp <;> omega

end Sys2Proof
end

section
/-!
What a handler can do, said once: it raises the fault of the table of spec/60_exceptions.md R210, or it completes with
one of a few kinds of effect. The statements about every instruction are derived from these cases.
-/

namespace Sys2Proof

/-- The six skips: the instructions that pass the next one or not (R97 (b), R118). -/
def Instr.isSkip : Instr → Bool
  | .skipEqImm _ _ | .skipNeqImm _ _ | .skipEqReg _ _ | .skipNeqReg _ _ | .skipKey _ | .skipNotkey _ => true
  | _ => false

/-- The instructions that load `pc` rather than move it past instructions (R97 (c)). -/
def Instr.isTransfer : Instr → Bool
  | .ret | .jump _ | .call _ | .jumpPlus _ => true
  | _ => false

namespace Machine

/-! ### The stack depth as `sp` (R16) -/

theorem State.sp_eq_neg_one_iff (s : State) : s.sp = -1 ↔ s.depth.val = 0 := by
  rw [State.sp]; omega

theorem State.sp_eq_fifteen_iff (s : State) : s.sp = 15 ↔ s.depth.val = 16 := by
  rw [State.sp]; omega

theorem State.sp_eq_natCast_iff (s : State) (k : Nat) : s.sp = k ↔ s.depth.val = k + 1 := by
  rw [State.sp]; omega

theorem State.sp_lt_fifteen_iff (s : State) : s.sp < 15 ↔ s.depth.val < 16 := by
  rw [State.sp]; omega

/-! ### The kinds of effect -/

/-- The state in which a CALL leaves the machine when an entry is free (R112). -/
def State.called (s : State) (nnn : Addr12) (h : s.depth.val < 16) : State :=
  { s with stack := s.stack.set s.depth.val s.pc h, depth := ⟨s.depth.val + 1, by omega⟩, pc := zextAddr nnn }

/-- The state in which a RETURN leaves the machine when an entry is live (R110). -/
def State.returned (s : State) (h : 0 < s.depth.val) : State :=
  { s with
    pc := s.stack[s.depth.val - 1]'(by have := s.depth.isLt; omega) + 2#16
    depth := ⟨s.depth.val - 1, by have := s.depth.isLt; omega⟩ }

/-- The states in which a handler that raises no fault can leave the machine, by kind of effect. -/
inductive Completes (s : State) : Instr → State → Prop
  | register {i : Instr} {x : RegIdx} (b : Byte) (hi : i.ordinaryDest = some x) : Completes s i (s.setV x b).advance
  | registers (x : RegIdx) : Completes s (.regLoad x) (s.loadRegs (x.toNat + 1)).advance
  | flagged {i : Instr} (x : RegIdx) (r : Byte) (f : Bool) (hi : i.definesFlag = true) :
    Completes s i ((s.setV x r).setV VF (flagByte f)).advance
  | jump (nnn : Addr12) : Completes s (.jump nnn) (s.setPc (zextAddr nnn))
  | jumpPlus (nnn : Addr12) : Completes s (.jumpPlus nnn) (s.setPc (zextAddr nnn + zextByte (s.getV 0#4)))
  | call (nnn : Addr12) (h : s.depth.val < 16) : Completes s (.call nnn) (s.called nnn h)
  | ret (h : 0 < s.depth.val) : Completes s .ret (s.returned h)
  | skip {i : Instr} (c : Bool) (hi : i.isSkip = true) : Completes s i (s.skipIf c)
  | index {i : Instr} (w : Word) (hi : (∃ nnn, i = .setIndex nnn) ∨ ∃ x, i = .addIndex x ∨ i = .fontAddr x) :
    Completes s i (s.setI w).advance
  | store {i : Instr} (l : List Byte) (hi : ∃ x, i = .bcd x ∨ i = .regDump x) :
    Completes s i (s.writeBytes (s.ea 0) l).advance
  | clear : Completes s .clearFb (s.setFb Framebuffer.clear).advance
  | draw (x y : RegIdx) (n : Nibble) (f : Framebuffer) (c : Bool) :
    Completes s (.draw x y n) (((s.setFb f).setV VF (flagByte c)).setDrawPending true).advance
  | delay (x : RegIdx) : Completes s (.setDelay x) (s.setDt (s.getV x)).advance
  | sound (x : RegIdx) : Completes s (.setSound x) (s.setSt (s.getV x)).advance
  | wait (x : RegIdx) : Completes s (.getKey x) s

/-! ### The handlers that test the stack or the keys -/

theorem exec_ret_of_live {s : State} (h : 0 < s.depth.val) : exec .ret s = .next (s.returned h) := by
  simp only [exec, execRet, State.pop_some h]
  rfl

theorem exec_ret_of_empty {s : State} (h : s.depth.val = 0) :
    exec .ret s = .next (s.fail .stackUnderflow s.pc) := by
  simp only [exec, execRet, State.pop_none h, raise_eq]

theorem exec_call_of_free {s : State} (nnn : Addr12) (h : s.depth.val < 16) :
    exec (.call nnn) s = .next (s.called nnn h) := by
  simp only [exec, execCall, State.push_some h]
  rfl

theorem exec_call_of_full {s : State} (nnn : Addr12) (h : s.depth.val = 16) :
    exec (.call nnn) s = .next (s.fail .stackOverflow s.pc) := by
  simp only [exec, execCall, State.push_none h, raise_eq]

theorem exec_skipKey_of_le {s : State} {x : RegIdx} (h : (s.getV x).toNat ≤ 15) :
    exec (.skipKey x) s = .next (s.skipIf (s.key.getLsbD (s.getV x).toNat)) := by
  simp only [exec, execSkipKey, State.keyNamed_some h]

theorem exec_skipKey_of_lt {s : State} {x : RegIdx} (h : 15 < (s.getV x).toNat) :
    exec (.skipKey x) s = .next (s.fail .keyIndex (zextByte (s.getV x))) := by
  simp only [exec, execSkipKey, State.keyNamed_none h, raise_eq]

theorem exec_skipNotkey_of_le {s : State} {x : RegIdx} (h : (s.getV x).toNat ≤ 15) :
    exec (.skipNotkey x) s = .next (s.skipIf (!s.key.getLsbD (s.getV x).toNat)) := by
  simp only [exec, execSkipNotkey, State.keyNamed_some h]

theorem exec_skipNotkey_of_lt {s : State} {x : RegIdx} (h : 15 < (s.getV x).toNat) :
    exec (.skipNotkey x) s = .next (s.fail .keyIndex (zextByte (s.getV x))) := by
  simp only [exec, execSkipNotkey, State.keyNamed_none h, raise_eq]

theorem exec_getKey_of_some {s : State} (x : RegIdx) {k : Nat} (h : leastKey s.key = some k) :
    exec (.getKey x) s = .next (s.setV x (BitVec.ofNat 8 k)).advance := by
  simp only [exec, execGetKey, State.takeKey, h]

theorem exec_getKey_of_none {s : State} (x : RegIdx) (h : leastKey s.key = none) :
    exec (.getKey x) s = .next s := by
  simp only [exec, execGetKey, State.takeKey, h]

/-! ### A handler faults by the table, or completes -/

/-- The handler of `i` run in `s` raises the fault the table gives, or completes. -/
def Answers (i : Instr) (s : State) : Prop :=
  (∃ c w, handlerFault i s = some (c, w.toNat) ∧ exec i s = .next (s.fail c w)) ∨
  (handlerFault i s = none ∧ ∃ t, exec i s = .next t ∧ Completes s i t)

theorem Answers.fault {i : Instr} {s : State} {c : FaultCause} {w : Word} (hf : handlerFault i s = some (c, w.toNat))
    (he : exec i s = .next (s.fail c w)) : Answers i s := .inl ⟨c, w, hf, he⟩

theorem Answers.completes {i : Instr} {s t : State} (hf : handlerFault i s = none) (he : exec i s = .next t)
    (hc : Completes s i t) : Answers i s := .inr ⟨hf, t, he, hc⟩

theorem State.rangeOk_eq_false_iff (s : State) (n : Nat) : s.rangeOk n = false ↔ n ≠ 0 ∧ 4096 < s.i.toNat + n := by
  rw [← Bool.not_eq_true, State.rangeOk_iff]
  omega

/-- An access checks its whole range first: it raises MEM_BOUNDS or does all of its work (R48). -/
theorem answers_withRange {i : Instr} {s ok : State} {n : Nat} (he : exec i s = s.withRange n ok)
    (hgood : s.rangeOk n = true → handlerFault i s = none)
    (hbad : s.rangeOk n = false → handlerFault i s = some (.memBounds, max s.i.toNat 0x1000))
    (hc : Completes s i ok) : Answers i s := by
  cases hr : s.rangeOk n with
  | true => exact .completes (hgood hr) (by rw [he, State.withRange_ok hr]) hc
  | false => exact .fault (by rw [hbad hr, State.boundsInfo_toNat]) (by rw [he, State.withRange_bad hr])

theorem answers_ret (s : State) : Answers .ret s := by
  by_cases h : 0 < s.depth.val
  · have hsp : s.sp ≠ -1 := by rw [Ne, State.sp_eq_neg_one_iff]; omega
    exact .completes (if_neg hsp) (exec_ret_of_live h) (.ret h)
  · have h0 : s.depth.val = 0 := Nat.eq_zero_of_not_pos h
    exact .fault (if_pos (s.sp_eq_neg_one_iff.2 h0)) (exec_ret_of_empty h0)

theorem answers_call (nnn : Addr12) (s : State) : Answers (.call nnn) s := by
  by_cases h : s.depth.val < 16
  · have hsp : s.sp ≠ 15 := by rw [Ne, State.sp_eq_fifteen_iff]; omega
    exact .completes (if_neg hsp) (exec_call_of_free nnn h) (.call nnn h)
  · have h16 : s.depth.val = 16 := by have := s.depth.isLt; omega
    exact .fault (if_pos (s.sp_eq_fifteen_iff.2 h16)) (exec_call_of_full nnn h16)

theorem handlerFault_skipKey_of_lt {x : RegIdx} {s : State} (h : 15 < (s.getV x).toNat) :
    handlerFault (.skipKey x) s = some (.keyIndex, (zextByte (s.getV x)).toNat) := by
  rw [zextByte_toNat]
  exact if_pos h

theorem handlerFault_skipNotkey_of_lt {x : RegIdx} {s : State} (h : 15 < (s.getV x).toNat) :
    handlerFault (.skipNotkey x) s = some (.keyIndex, (zextByte (s.getV x)).toNat) := by
  rw [zextByte_toNat]
  exact if_pos h

theorem answers_skipKey (x : RegIdx) (s : State) : Answers (.skipKey x) s := by
  by_cases h : (s.getV x).toNat ≤ 15
  · exact .completes (if_neg (Nat.not_lt.2 h)) (exec_skipKey_of_le h) (.skip _ rfl)
  · have h' : 15 < (s.getV x).toNat := Nat.not_le.1 h
    exact .fault (handlerFault_skipKey_of_lt h') (exec_skipKey_of_lt h')

theorem answers_skipNotkey (x : RegIdx) (s : State) : Answers (.skipNotkey x) s := by
  by_cases h : (s.getV x).toNat ≤ 15
  · exact .completes (if_neg (Nat.not_lt.2 h)) (exec_skipNotkey_of_le h) (.skip _ rfl)
  · have h' : 15 < (s.getV x).toNat := Nat.not_le.1 h
    exact .fault (handlerFault_skipNotkey_of_lt h') (exec_skipNotkey_of_lt h')

theorem answers_getKey (x : RegIdx) (s : State) : Answers (.getKey x) s := by
  obtain ⟨k, hk, -⟩ | ⟨hk, -⟩ := s.takeKey_cases x
  · exact .completes rfl (exec_getKey_of_some x hk) (.register _ rfl)
  · exact .completes rfl (exec_getKey_of_none x hk) (.wait x)

theorem answers_draw (x y : RegIdx) (n : Nibble) (s : State) : Answers (.draw x y n) s := by
  refine answers_withRange (n := n.toNat) rfl (fun h => if_neg ?_) (fun h => if_pos ?_) (.draw x y n _ _)
  · rw [State.rangeOk_iff] at h; omega
  · rw [State.rangeOk_eq_false_iff] at h; omega

theorem answers_bcd (x : RegIdx) (s : State) : Answers (.bcd x) s := by
  refine answers_withRange (n := 3) rfl (fun h => if_neg ?_) (fun h => if_pos ?_) (.store _ ⟨x, .inl rfl⟩)
  · rw [State.rangeOk_iff] at h; omega
  · rw [State.rangeOk_eq_false_iff] at h; omega

theorem answers_regDump (x : RegIdx) (s : State) : Answers (.regDump x) s := by
  refine answers_withRange (n := x.toNat + 1) rfl (fun h => if_neg ?_) (fun h => if_pos ?_) (.store _ ⟨x, .inr rfl⟩)
  · rw [State.rangeOk_iff] at h; omega
  · rw [State.rangeOk_eq_false_iff] at h; omega

theorem answers_regLoad (x : RegIdx) (s : State) : Answers (.regLoad x) s := by
  refine answers_withRange (n := x.toNat + 1) rfl (fun h => if_neg ?_) (fun h => if_pos ?_) (.registers x)
  · rw [State.rangeOk_iff] at h; omega
  · rw [State.rangeOk_eq_false_iff] at h; omega

/-- Every handler, in every state. -/
theorem answers (i : Instr) (s : State) : Answers i s := by
  cases i with
  | clearFb => exact .completes rfl rfl .clear
  | ret => exact answers_ret s
  | jump nnn => exact .completes rfl rfl (.jump nnn)
  | call nnn => exact answers_call nnn s
  | skipEqImm x nn => exact .completes rfl rfl (.skip _ rfl)
  | skipNeqImm x nn => exact .completes rfl rfl (.skip _ rfl)
  | skipEqReg x y => exact .completes rfl rfl (.skip _ rfl)
  | setImm x nn => exact .completes rfl rfl (.register _ rfl)
  | addImm x nn => exact .completes rfl rfl (.register _ rfl)
  | setReg x y => exact .completes rfl rfl (.register _ rfl)
  | orReg x y => exact .completes rfl rfl (.register _ rfl)
  | andReg x y => exact .completes rfl rfl (.register _ rfl)
  | xorReg x y => exact .completes rfl rfl (.register _ rfl)
  | addReg x y => exact .completes rfl rfl (.flagged _ _ _ rfl)
  | subReg x y => exact .completes rfl rfl (.flagged _ _ _ rfl)
  | shr x y => exact .completes rfl rfl (.flagged _ _ _ rfl)
  | subn x y => exact .completes rfl rfl (.flagged _ _ _ rfl)
  | shl x y => exact .completes rfl rfl (.flagged _ _ _ rfl)
  | skipNeqReg x y => exact .completes rfl rfl (.skip _ rfl)
  | setIndex nnn => exact .completes rfl rfl (.index _ (.inl ⟨nnn, rfl⟩))
  | jumpPlus nnn => exact .completes rfl rfl (.jumpPlus nnn)
  | random x nn => exact .completes rfl rfl (.register _ rfl)
  | draw x y n => exact answers_draw x y n s
  | skipKey x => exact answers_skipKey x s
  | skipNotkey x => exact answers_skipNotkey x s
  | getDelay x => exact .completes rfl rfl (.register _ rfl)
  | getKey x => exact answers_getKey x s
  | setDelay x => exact .completes rfl rfl (.delay x)
  | setSound x => exact .completes rfl rfl (.sound x)
  | addIndex x => exact .completes rfl rfl (.index _ (.inr ⟨x, .inl rfl⟩))
  | fontAddr x => exact .completes rfl rfl (.index _ (.inr ⟨x, .inr rfl⟩))
  | bcd x => exact answers_bcd x s
  | regDump x => exact answers_regDump x s
  | regLoad x => exact answers_regLoad x s

/-- Everything a handler can do. -/
theorem exec_cases {i : Instr} {s t : State} (h : exec i s = .next t) :
    (∃ c w, handlerFault i s = some (c, w.toNat) ∧ t = s.fail c w) ∨ (handlerFault i s = none ∧ Completes s i t) := by
  obtain ⟨c, w, hf, he⟩ | ⟨hf, u, he, hc⟩ := answers i s
  · exact .inl ⟨c, w, hf, Host.Outcome.next.inj (h.symm.trans he)⟩
  · cases Host.Outcome.next.inj (h.symm.trans he)
    exact .inr ⟨hf, hc⟩

/-- A handler always answers a next state. -/
theorem exec_next (i : Instr) (s : State) : ∃ t, exec i s = .next t := by
  obtain ⟨c, w, -, he⟩ | ⟨-, t, he, -⟩ := answers i s
  · exact ⟨_, he⟩
  · exact ⟨t, he⟩

end Machine

end Sys2Proof
end

section
/-!
What the kinds of effect leave unchanged, and the statements about every handler: the writers of each element of the
state (spec/10_state.md), the fault table (spec/60_exceptions.md R210, R220), the flag register (R12) and the bounds
of `pc` (spec/41_flow.md R119).
-/

namespace Sys2Proof.Machine

/-! ### Who writes what -/

theorem Completes.i_writer {i : Instr} {s t : State} (h : Completes s i t) :
    t.i = s.i ∨ (∃ nnn, i = .setIndex nnn) ∨ ∃ x, i = .addIndex x ∨ i = .fontAddr x := by
  cases h with
  | index w hi => exact .inr hi
  | _ => exact .inl (by simp [State.called, State.returned])

theorem Completes.stack_writer {i : Instr} {s t : State} (h : Completes s i t) :
    t.stack = s.stack ∨ ∃ nnn, i = .call nnn := by
  cases h with
  | call nnn _ => exact .inr ⟨nnn, rfl⟩
  | _ => exact .inl (by simp [State.returned])

theorem Completes.depth_writer {i : Instr} {s t : State} (h : Completes s i t) :
    t.depth = s.depth ∨ i = .ret ∨ ∃ nnn, i = .call nnn := by
  cases h with
  | call nnn _ => exact .inr (.inr ⟨nnn, rfl⟩)
  | ret _ => exact .inr (.inl rfl)
  | _ => exact .inl (by simp)

theorem Completes.dt_writer {i : Instr} {s t : State} (h : Completes s i t) : t.dt = s.dt ∨ ∃ x, i = .setDelay x := by
  cases h with
  | delay x => exact .inr ⟨x, rfl⟩
  | _ => exact .inl (by simp [State.called, State.returned])

theorem Completes.st_writer {i : Instr} {s t : State} (h : Completes s i t) : t.st = s.st ∨ ∃ x, i = .setSound x := by
  cases h with
  | sound x => exact .inr ⟨x, rfl⟩
  | _ => exact .inl (by simp [State.called, State.returned])

theorem Completes.fb_writer {i : Instr} {s t : State} (h : Completes s i t) :
    t.fb = s.fb ∨ i = .clearFb ∨ ∃ x y n, i = .draw x y n := by
  cases h with
  | clear => exact .inr (.inl rfl)
  | draw x y n f c => exact .inr (.inr ⟨x, y, n, rfl⟩)
  | _ => exact .inl (by simp [State.called, State.returned])

theorem Completes.drawPending_writer {i : Instr} {s t : State} (h : Completes s i t) :
    t.drawPending = s.drawPending ∨ (∃ x y n, i = .draw x y n) ∧ t.drawPending = true := by
  cases h with
  | draw x y n f c => exact .inr ⟨⟨x, y, n, rfl⟩, rfl⟩
  | _ => exact .inl (by simp [State.called, State.returned])

theorem Completes.mem_writer {i : Instr} {s t : State} (h : Completes s i t) :
    t.mem = s.mem ∨ ∃ x, i = .bcd x ∨ i = .regDump x := by
  cases h with
  | store l hi => exact .inr hi
  | _ => exact .inl (by simp [State.called, State.returned])

/-- No handler writes the key state, the recorded word or the inputs of cycles. -/
theorem Completes.cycleRecord {i : Instr} {s t : State} (h : Completes s i t) :
    t.key = s.key ∧ t.lastOpcode = s.lastOpcode ∧ t.rnd = s.rnd ∧ t.inputs = s.inputs ∧ t.cycleNo = s.cycleNo := by
  cases h <;> simp [State.called, State.returned]

/-- A handler that completes leaves the fault fields. -/
theorem Completes.faultFields {i : Instr} {s t : State} (h : Completes s i t) :
    t.halted = s.halted ∧ t.faultCause = s.faultCause ∧ t.faultInfo = s.faultInfo := by
  cases h <;> simp [State.called, State.returned]

/-- Settles O54: a fault writes none of the three, and each kind of effect names its writer. -/
theorem indexAndStackWriters : Obligations.IndexAndStackWriters := by
  intro i s t h
  obtain ⟨c, w, -, rfl⟩ | ⟨-, hc⟩ := exec_cases h
  · exact ⟨fun hn => absurd rfl hn, fun hn => absurd rfl hn, fun hn => absurd rfl hn⟩
  · refine ⟨hc.i_writer.resolve_left, hc.stack_writer.resolve_left, fun hn => ?_⟩
    exact hc.depth_writer.resolve_left fun hd => hn (by rw [State.sp, State.sp, hd])

/-- Settles O55: a fault writes none of the four, and each kind of effect names its writer. -/
theorem displayAndTimerWriters : Obligations.DisplayAndTimerWriters := by
  intro i s t h
  obtain ⟨c, w, -, rfl⟩ | ⟨-, hc⟩ := exec_cases h
  · exact ⟨fun hn => absurd rfl hn, fun hn => absurd rfl hn, fun hn => absurd rfl hn, fun hn => absurd rfl hn⟩
  · exact ⟨hc.dt_writer.resolve_left, hc.st_writer.resolve_left, hc.fb_writer.resolve_left,
      hc.drawPending_writer.resolve_left⟩

/-- Settles O56: a fault writes none of them, and no kind of effect but a store writes memory. -/
theorem memoryAndCycleRecordWriters : Obligations.MemoryAndCycleRecordWriters := by
  intro i s t h
  obtain ⟨c, w, -, rfl⟩ | ⟨-, hc⟩ := exec_cases h
  · exact ⟨fun hn => absurd rfl hn, rfl, rfl, rfl, rfl, rfl⟩
  · exact ⟨hc.mem_writer.resolve_left, hc.cycleRecord⟩

/-! ### Faults -/

/-- A row of the table faults under its condition alone, with its cause and information. -/
theorem of_faultIf {p : Prop} [Decidable p] {c c' : FaultCause} {n n' : Nat}
    (h : (if p then some (c', n') else none) = some (c, n)) : p ∧ c = c' ∧ n = n' := by
  obtain ⟨hp, he⟩ := Option.ite_none_right_eq_some.1 h
  cases he
  exact ⟨hp, rfl, rfl⟩

/-- The table of R210, row by row: the cause of a handler's fault names its instruction and condition. -/
theorem handlerFault_cases {i : Instr} {s : State} {c : FaultCause} {n : Nat} (h : handlerFault i s = some (c, n)) :
    (c = .stackUnderflow ∧ n = s.pc.toNat ∧ s.sp = -1 ∧ i = .ret) ∨
    (c = .stackOverflow ∧ n = s.pc.toNat ∧ s.sp = 15 ∧ ∃ nnn, i = .call nnn) ∨
    (c = .memBounds ∧ n = max s.i.toNat 0x1000 ∧ 0xFF1 ≤ s.i.toNat) ∨
    (c = .keyIndex ∧ ∃ x, n = (s.getV x).toNat ∧ 15 < (s.getV x).toNat) := by
  cases i with
  | ret =>
    obtain ⟨hsp, hc, hn⟩ := of_faultIf h
    exact .inl ⟨hc, hn, hsp, rfl⟩
  | call nnn =>
    obtain ⟨hsp, hc, hn⟩ := of_faultIf h
    exact .inr (.inl ⟨hc, hn, hsp, nnn, rfl⟩)
  | draw x y k =>
    obtain ⟨hi, hc, hn⟩ := of_faultIf h
    exact .inr (.inr (.inl ⟨hc, hn, by have := k.isLt; omega⟩))
  | bcd x =>
    obtain ⟨hi, hc, hn⟩ := of_faultIf h
    exact .inr (.inr (.inl ⟨hc, hn, by omega⟩))
  | regDump x | regLoad x =>
    obtain ⟨hi, hc, hn⟩ := of_faultIf h
    exact .inr (.inr (.inl ⟨hc, hn, by have := x.isLt; omega⟩))
  | skipKey x | skipNotkey x =>
    obtain ⟨hv, hc, hn⟩ := of_faultIf h
    exact .inr (.inr (.inr ⟨hc, x, hn, hv⟩))
  | _ => cases h

/-- No handler raises the cause that stands for no fault. -/
theorem handlerFault_ne_none {i : Instr} {s : State} {c : FaultCause} {n : Nat} (h : handlerFault i s = some (c, n)) :
    c ≠ .none := by
  obtain ⟨rfl, -⟩ | ⟨rfl, -⟩ | ⟨rfl, -⟩ | ⟨rfl, -⟩ := handlerFault_cases h <;> decide

/-- Settles O48: a handler that completes leaves `halted` clear; fault entry writes the three fields alone. -/
theorem faultingHandlerChangesNothingElse : Obligations.FaultingHandlerChangesNothingElse := by
  intro i s t hs h ht
  obtain ⟨c, w, hf, rfl⟩ | ⟨-, hc⟩ := exec_cases h
  · exact ⟨rfl, handlerFault_ne_none hf, fun _ => rfl⟩
  · rw [hc.faultFields.1, hs] at ht
    cases ht

/-- Settles O49: every handler faults by the table or completes (`answers`). -/
theorem handlersFaultExactlyWhen : Obligations.HandlersFaultExactlyWhen := by
  intro i s hs
  obtain ⟨c, w, hf, he⟩ | ⟨hf, t, he, hc⟩ := answers i s
  · refine ⟨_, he, ?_⟩
    rw [hf]
    exact ⟨rfl, rfl, rfl⟩
  · refine ⟨t, he, ?_⟩
    rw [hf, ← hs]
    exact hc.faultFields

/-! ### The flag register -/

theorem definesFlag_of_ordinaryDest {i : Instr} {x : RegIdx} (h : i.ordinaryDest = some x) :
    i.definesFlag = false := by
  cases i with
  | addReg | subReg | shr | subn | shl | draw => cases h
  | _ => rfl

theorem definesFlag_of_isSkip {i : Instr} (h : i.isSkip = true) : i.definesFlag = false := by
  cases i with
  | addReg | subReg | shr | subn | shl | draw => cases h
  | _ => rfl

theorem flagByte_toNat_eq_zero_or_one (f : Bool) : (flagByte f).toNat = 0 ∨ (flagByte f).toNat = 1 := by
  cases f
  · exact .inl rfl
  · exact .inr rfl

/-- VF after a handler that completes: the flag of an instruction that defines one; for any other, as before, unless
VF is the destination (R12). -/
theorem Completes.flag_cases {i : Instr} {s t : State} (h : Completes s i t) :
    (i.definesFlag = true ∧ ∃ f, t.getV VF = flagByte f) ∨
    (i.definesFlag = false ∧ (t.getV VF = s.getV VF ∨ i.ordinaryDest = some VF)) := by
  cases h with
  | @register _ x b hi =>
    refine .inr ⟨definesFlag_of_ordinaryDest hi, ?_⟩
    by_cases hx : x = VF
    · exact .inr (hx ▸ hi)
    · exact .inl (by rw [State.getV_setV_advance, if_neg (Ne.symm hx)])
  | registers x =>
    refine .inr ⟨rfl, ?_⟩
    by_cases hx : x = VF
    · exact .inr (congrArg some hx)
    · have hlt : ¬ VF.toNat < x.toNat + 1 := fun hlt =>
        hx (BitVec.eq_of_toNat_eq (by have := x.isLt; simp only [BitVec.toNat_ofNat] at hlt ⊢; omega))
      exact .inl (by rw [State.getV_advance, State.getV_loadRegs _ _ x.isLt, if_neg hlt])
  | flagged x r f hi => exact .inl ⟨hi, f, State.getV_setV_self _ _ _⟩
  | draw x y n f c => exact .inl ⟨rfl, c, State.getV_setV_self _ _ _⟩
  | skip c hi => exact .inr ⟨definesFlag_of_isSkip hi, .inl (State.getV_congr (State.skipIf_v s c) VF)⟩
  | index w hi => 
    obtain ⟨nnn, rfl⟩ | ⟨x, rfl | rfl⟩ := hi
    all_goals exact .inr ⟨rfl, .inl rfl⟩
  | store l hi =>
    have hv : (s.writeBytes (s.ea 0) l).advance.getV VF = s.getV VF := State.getV_congr (State.writeBytes_v _ _ _) VF
    obtain ⟨x, rfl | rfl⟩ := hi
    all_goals exact .inr ⟨rfl, .inl hv⟩
  | _ => exact .inr ⟨rfl, .inl rfl⟩

/-- Settles O33: a fault entry writes no register, and a handler that completes obeys `Completes.flag_cases`. -/
theorem flagRegisterRule : Obligations.FlagRegisterRule := by
  intro i s t hs h
  obtain ⟨c, w, -, rfl⟩ | ⟨-, hc⟩ := exec_cases h
  · exact ⟨fun _ (ht : true = false) => absurd ht nofun, fun _ _ => rfl⟩
  · obtain ⟨hi, f, hf⟩ | ⟨hi, hv⟩ := hc.flag_cases
    · exact ⟨fun _ _ => hf ▸ flagByte_toNat_eq_zero_or_one f, fun hi' => absurd (hi.symm.trans hi') nofun⟩
    · exact ⟨fun hi' => absurd (hi.symm.trans hi') nofun, fun _ => hv.resolve_right⟩

/-! ### The bounds of `pc` -/

theorem add_toNat_le (w d : Word) : (w + d).toNat ≤ w.toNat + d.toNat := by
  rw [BitVec.toNat_add]
  exact Nat.mod_le _ _

theorem isTransfer_of_ordinaryDest {i : Instr} {x : RegIdx} (h : i.ordinaryDest = some x) : i.isTransfer = false := by
  cases i with
  | ret | jump | call | jumpPlus => cases h
  | _ => rfl

theorem isTransfer_of_definesFlag {i : Instr} (h : i.definesFlag = true) : i.isTransfer = false := by
  cases i with
  | ret | jump | call | jumpPlus => cases h
  | _ => rfl

theorem isTransfer_of_isSkip {i : Instr} (h : i.isSkip = true) : i.isTransfer = false := by
  cases i with
  | ret | jump | call | jumpPlus => cases h
  | _ => rfl

/-- Where a handler that completes leaves `pc`: at most two instructions on, unless it transfers control (R97). -/
theorem Completes.pc_cases {i : Instr} {s t : State} (h : Completes s i t) :
    (i.isTransfer = false ∧ t.pc.toNat ≤ s.pc.toNat + 4) ∨
    (∃ nnn, (i = .jump nnn ∨ i = .call nnn) ∧ t.pc = zextAddr nnn) ∨
    (∃ nnn, i = .jumpPlus nnn ∧ t.pc = zextAddr nnn + zextByte (s.getV 0#4)) ∨
    (i = .ret ∧ ∃ hlive, t = s.returned hlive) := by
  have two : (s.pc + 2#16).toNat ≤ s.pc.toNat + 4 := (add_toNat_le s.pc 2#16).trans (Nat.add_le_add_left (by decide) _)
  cases h with
  | jump nnn => exact .inr (.inl ⟨nnn, .inl rfl, rfl⟩)
  | call nnn _ => exact .inr (.inl ⟨nnn, .inr rfl, rfl⟩)
  | jumpPlus nnn => exact .inr (.inr (.inl ⟨nnn, rfl, rfl⟩))
  | ret hlive => exact .inr (.inr (.inr ⟨rfl, hlive, rfl⟩))
  | register b hi => exact .inl ⟨isTransfer_of_ordinaryDest hi, two⟩
  | registers x => exact .inl ⟨rfl, by rwa [State.advance_pc, State.loadRegs_pc]⟩
  | flagged x r f hi => exact .inl ⟨isTransfer_of_definesFlag hi, two⟩
  | skip c hi =>
    refine .inl ⟨isTransfer_of_isSkip hi, ?_⟩
    rw [State.skipIf_pc]
    cases c
    · exact two
    · exact add_toNat_le s.pc 4#16
  | index w hi =>
    refine .inl ⟨?_, two⟩
    obtain ⟨nnn, rfl⟩ | ⟨x, rfl | rfl⟩ := hi
    all_goals rfl
  | store l hi =>
    refine .inl ⟨?_, by rwa [State.advance_pc, State.writeBytes_pc]⟩
    obtain ⟨x, rfl | rfl⟩ := hi
    all_goals rfl
  | wait => exact .inl ⟨rfl, Nat.le_add_right ..⟩
  | _ => exact .inl ⟨rfl, two⟩

theorem zextAddr_toNat_le (nnn : Addr12) : (zextAddr nnn).toNat ≤ 0xFFF := by
  rw [zextAddr_toNat]
  exact Nat.le_of_lt_succ nnn.isLt

/-- RETURN adds 2 to the entry on top (R110). -/
theorem returned_pc_toNat_le {s : State} (h : 0 < s.depth.val)
    (hstack : ∀ (k : Nat) (h : k < 16), s.sp = k → (s.stack[k]'h).toNat ≤ 0xFFE) :
    (s.returned h).pc.toNat ≤ 0x1000 := by
  have hk : s.depth.val - 1 < 16 := by have := s.depth.isLt; omega
  have htop : (s.stack[s.depth.val - 1]'hk).toNat ≤ 0xFFE :=
    hstack _ hk ((s.sp_eq_natCast_iff _).2 (by omega))
  calc (s.returned h).pc.toNat
    _ ≤ (s.stack[s.depth.val - 1]'hk).toNat + 2 := add_toNat_le _ _
    _ ≤ 0x1000 := Nat.add_le_add_right htop 2

/-- Settles O23: JUMP and CALL load at most 0xFFF, RETURN adds 2 to the entry on top, JUMP_PLUS adds at most 0xFF, and
every other handler moves `pc` by at most 4; a fault leaves it. -/
theorem handlersBoundThePc : Obligations.HandlersBoundThePc := by
  intro i s t hpc hstack h
  obtain ⟨c, w, -, rfl⟩ | ⟨-, hc⟩ := exec_cases h
  · have ht : (s.fail c w).pc.toNat ≤ 0xFFE := hpc
    exact ⟨by omega, fun _ => by omega, fun _ => by omega, fun _ => by omega⟩
  · obtain ⟨hi, ht⟩ | ⟨nnn, hi, ht⟩ | ⟨nnn, rfl, ht⟩ | ⟨rfl, hlive, rfl⟩ := hc.pc_cases
    · refine ⟨by omega, fun _ => by omega, fun hret => absurd (hret ▸ hi) nofun, ?_⟩
      rintro ⟨nnn, rfl | rfl⟩ <;> cases hi
    · have hle : t.pc.toNat ≤ 0xFFF := ht ▸ zextAddr_toNat_le nnn
      exact ⟨by omega, fun _ => by omega, fun _ => by omega, fun _ => hle⟩
    · have hn : nnn.toNat < 4096 := nnn.isLt
      have hb : (s.getV 0#4).toNat < 256 := (s.getV 0#4).isLt
      rw [ht, zextAddr_add_zextByte_toNat]
      exact ⟨by omega, fun hne => absurd rfl (hne nnn), nofun, fun ⟨_, hi⟩ => hi.elim nofun nofun⟩
    · have hle := returned_pc_toNat_le hlive hstack
      exact ⟨by omega, fun _ => by omega, fun _ => hle, fun ⟨_, hi⟩ => hi.elim nofun nofun⟩

end Sys2Proof.Machine
end

section
/-!
The cycle (spec/40_cycle.md R90 to R101): what it does before a handler runs, its three outcomes, and the statements
about every Cycle.
-/

namespace Sys2Proof.Machine

/-! ### Before the handler -/

theorem tickDown_toNat (t : Byte) : (tickDown t).toNat = t.toNat - 1 := by
  unfold tickDown
  split
  · next h => rw [h]; rfl
  · next h =>
    have hpos : t.toNat ≠ 0 := fun h0 => h (BitVec.eq_of_toNat_eq h0)
    have hlt : t.toNat < 256 := t.isLt
    rw [BitVec.toNat_sub, BitVec.toNat_ofNat]
    omega

theorem tickDown_eq_ofNat (t : Byte) : tickDown t = BitVec.ofNat 8 (t.toNat - 1) := by
  rw [← tickDown_toNat, BitVec.ofNat_toNat, BitVec.setWidth_eq]

theorem wordOfBytes_eq_ofNat (hi lo : Byte) : wordOfBytes hi lo = BitVec.ofNat 16 (hi.toNat * 256 + lo.toNat) := by
  rw [← wordOfBytes_toNat, BitVec.ofNat_toNat, BitVec.setWidth_eq]

/-- The word at `pc` (R43). -/
def State.wordAtPc (s : State) : Word := wordOfBytes (s.readByte s.pc.toNat) (s.readByte (s.pc.toNat + 1))

/-- The state in which a Cycle with these arguments runs the handler: keys replaced, timers ticked, word recorded (R92
to R95). -/
def State.fetched (s : State) (keys : BitVec 16) (rnd : Byte) : State :=
  (s.latch keys rnd).tickTimers.setLastOpcode s.wordAtPc

theorem wordAtPc_toNat (s : State) :
    s.wordAtPc.toNat = (s.readByte s.pc.toNat).toNat * 256 + (s.readByte (s.pc.toNat + 1)).toNat :=
  wordOfBytes_toNat _ _

theorem State.fetched_eq (s : State) (keys : BitVec 16) (rnd : Byte) :
    s.fetched keys rnd = { s with
      key := keys
      rnd := rnd
      dt := BitVec.ofNat 8 (s.dt.toNat - 1)
      st := BitVec.ofNat 8 (s.st.toNat - 1)
      lastOpcode := BitVec.ofNat 16
        ((s.readByte s.pc.toNat).toNat * 256 + (s.readByte (s.pc.toNat + 1)).toNat) } := by
  rw [← tickDown_eq_ofNat, ← tickDown_eq_ofNat, ← wordOfBytes_eq_ofNat]
  rfl

/-! ### The instruction a cycle executes -/

theorem State.nextInstr_eq_some_iff (s : State) (i : Instr) :
    s.nextInstr = some i ↔
      s.pc.toNat + 1 ≤ 0xFFF ∧ decode (s.readByte s.pc.toNat) (s.readByte (s.pc.toNat + 1)) = .ok i := by
  unfold State.nextInstr
  by_cases h : s.pc.toNat + 1 ≤ 0xFFF
  · simp only [State.fetch_some h, decodeWord_wordOfBytes, and_iff_right h]
    cases decode (s.readByte s.pc.toNat) (s.readByte (s.pc.toNat + 1)) with
    | ok j => simp
    | error u => simp
  · simp only [State.fetch_none (Nat.not_le.1 h)]
    exact iff_of_false nofun fun hh => h hh.1

/-- The instruction depends on memory and `pc` alone. -/
theorem State.nextInstr_congr {s t : State} (hm : t.mem = s.mem) (hp : t.pc = s.pc) : t.nextInstr = s.nextInstr := by
  simp only [State.nextInstr, State.fetch, State.readByte, hm, hp]

/-! ### The outcomes of a Cycle of a machine that has not stopped -/

theorem cycle_of_halted (keys : BitVec 16) (rnd : Byte) {s : State} (h : s.halted = true) :
    cycle keys rnd s = .next s := by
  rw [cycle, if_pos h]

theorem cycle_of_nextInstr (keys : BitVec 16) (rnd : Byte) {s : State} {i : Instr} (hh : s.halted = false)
    (hi : s.nextInstr = some i) : cycle keys rnd s = exec i (s.fetched keys rnd) := by
  obtain ⟨hpc, hd⟩ := (s.nextInstr_eq_some_iff i).1 hi
  obtain ⟨h, -⟩ | ⟨-, h, -⟩ | ⟨-, -, ⟨u, h⟩, -⟩ | ⟨-, -, j, h, hc⟩ := cycle_cases keys rnd s
  · rw [hh] at h; cases h
  · omega
  · rw [hd] at h; cases h
  · rw [hd] at h; cases h
    exact hc

theorem cycle_of_unmatched (keys : BitVec 16) (rnd : Byte) {s : State} {u : Unmatched} (hh : s.halted = false)
    (hpc : s.pc.toNat + 1 ≤ 0xFFF) (hd : decode (s.readByte s.pc.toNat) (s.readByte (s.pc.toNat + 1)) = .error u) :
    cycle keys rnd s = .next (s.fetched keys rnd) := by
  obtain ⟨h, -⟩ | ⟨-, h, -⟩ | ⟨-, -, -, hc⟩ | ⟨-, -, j, h, -⟩ := cycle_cases keys rnd s
  · rw [hh] at h; cases h
  · omega
  · exact hc
  · rw [hd] at h; cases h

theorem cycle_of_beyond (keys : BitVec 16) (rnd : Byte) {s : State} (hh : s.halted = false)
    (hpc : 0xFFF < s.pc.toNat + 1) :
    cycle keys rnd s = .next ((s.latch keys rnd).tickTimers.fail .fetchBounds s.pc) := by
  obtain ⟨h, -⟩ | ⟨-, -, hc⟩ | ⟨-, h, -⟩ | ⟨-, h, -⟩ := cycle_cases keys rnd s
  · rw [hh] at h; cases h
  · exact hc
  · omega
  · omega

/-- The three outcomes: FETCH_BOUNDS, the fallback, or one handler. -/
theorem cycle_cases_of_running (keys : BitVec 16) (rnd : Byte) {s : State} (hh : s.halted = false) :
    (0xFFF < s.pc.toNat + 1 ∧ s.nextInstr = none ∧
      cycle keys rnd s = .next ((s.latch keys rnd).tickTimers.fail .fetchBounds s.pc)) ∨
    (s.pc.toNat + 1 ≤ 0xFFF ∧ s.nextInstr = none ∧ cycle keys rnd s = .next (s.fetched keys rnd)) ∨
    (s.pc.toNat + 1 ≤ 0xFFF ∧ ∃ i, s.nextInstr = some i ∧ cycle keys rnd s = exec i (s.fetched keys rnd)) := by
  obtain ⟨h, -⟩ | ⟨-, hpc, hc⟩ | ⟨-, hpc, ⟨u, hd⟩, hc⟩ | ⟨-, hpc, i, hd, hc⟩ := cycle_cases keys rnd s
  · rw [hh] at h; cases h
  · refine .inl ⟨hpc, Option.eq_none_iff_forall_ne_some.2 fun i hi => ?_, hc⟩
    have := ((s.nextInstr_eq_some_iff i).1 hi).1
    omega
  · refine .inr (.inl ⟨hpc, Option.eq_none_iff_forall_ne_some.2 fun i hi => ?_, hc⟩)
    have := hd.symm.trans ((s.nextInstr_eq_some_iff i).1 hi).2
    cases this
  · exact .inr (.inr ⟨hpc, i, (s.nextInstr_eq_some_iff i).2 ⟨hpc, hd⟩, hc⟩)

/-! ### The obligations -/

/-- Settles O9: a step is a Cycle with the next inputs, and that Cycle runs the handler of the word at `pc`. -/
theorem stepRunsDecodedInstruction : Obligations.StepRunsDecodedInstruction := by
  intro s i hh hpc hd
  obtain ⟨h, -⟩ | ⟨-, hstep⟩ := step_cases s
  · rw [hh] at h; cases h
  · have hi : s.takeInput.nextInstr = some i := (s.nextInstr_eq_some_iff i).2 ⟨hpc, hd⟩
    rw [hstep, cycle_of_nextInstr _ _ (s := s.takeInput) hh hi, State.fetched_eq]
    rfl

/-- Settles O11: both `cycle` and `step` test `halted` first. -/
theorem haltedMachineStays : Obligations.HaltedMachineStays := by
  intro keys rnd s h
  refine ⟨cycle_of_halted keys rnd h, ?_, ?_⟩
  · simp only [hostOp, cycle_of_halted keys rnd h]
  · rw [step, if_pos h, haltedStep]

/-- Settles O12: this is the first outcome of a Cycle, with the ticks written as differences. -/
theorem fetchBeyondMemoryFaults : Obligations.FetchBeyondMemoryFaults := by
  intro keys rnd s hh hpc
  rw [cycle_of_beyond keys rnd hh hpc, ← tickDown_eq_ofNat, ← tickDown_eq_ofNat]
  rfl

/-- Settles O13: the fallback leaves the state in which a handler would have run. -/
theorem unmatchedWordIsInert : Obligations.UnmatchedWordIsInert := by
  intro keys rnd s u hh hpc hd
  rw [cycle_of_unmatched keys rnd hh hpc hd, State.fetched_eq]

/-- Settles O16: every handler faults or completes (`exec_next`), and the other outcomes of a Cycle are next states. -/
theorem everyHandlerAnswers : Obligations.EveryHandlerAnswers := by
  refine ⟨exec_next, fun keys rnd s => ?_⟩
  obtain ⟨-, hc⟩ | ⟨-, -, hc⟩ | ⟨-, -, -, hc⟩ | ⟨-, -, i, -, hc⟩ := cycle_cases keys rnd s
  · exact ⟨_, hc⟩
  · exact ⟨_, hc⟩
  · exact ⟨_, hc⟩
  · rw [hc]
    exact exec_next i _

/-- Settles O10: the cycle commits them before the handler runs, and only the timer instructions write a timer. -/
theorem cycleCommitsKeysTimersAndWord : Obligations.CycleCommitsKeysTimersAndWord := by
  intro keys rnd s hh
  obtain ⟨hpc, -, hc⟩ | ⟨hpc, -, hc⟩ | ⟨hpc, i, hi, hc⟩ := cycle_cases_of_running keys rnd hh
  · exact ⟨_, hc, rfl, fun h => absurd h (Nat.not_le.2 hpc), fun _ => rfl, fun _ => tickDown_toNat s.dt,
      fun _ => tickDown_toNat s.st⟩
  · exact ⟨_, hc, rfl, fun _ => wordAtPc_toNat s, fun h => absurd hpc (Nat.not_le.2 h), fun _ => tickDown_toNat s.dt,
      fun _ => tickDown_toNat s.st⟩
  · obtain ⟨t, ht⟩ := exec_next i (s.fetched keys rnd)
    obtain ⟨-, hkey, hword, -⟩ := memoryAndCycleRecordWriters i _ t ht
    obtain ⟨hdt, hst, -⟩ := displayAndTimerWriters i _ t ht
    refine ⟨t, hc.trans ht, hkey, fun _ => ?_, fun h => absurd hpc (Nat.not_le.2 h), fun hne => ?_, fun hne => ?_⟩
    · rw [hword]
      exact wordAtPc_toNat s
    · have hkept : t.dt = tickDown s.dt := by_contra fun hd => by
        obtain ⟨x, rfl⟩ := hdt hd
        exact hne x hi
      rw [hkept, tickDown_toNat]
    · have hkept : t.st = tickDown s.st := by_contra fun hd => by
        obtain ⟨x, rfl⟩ := hst hd
        exact hne x hi
      rw [hkept, tickDown_toNat]

end Sys2Proof.Machine
end

section
/-!
The inputs of a Cycle reach only the instructions that read them (spec/42_alu.md R141, spec/60_exceptions.md R219):
every other handler commutes with replacing them.
-/

namespace Sys2Proof.Machine

/-! ### Replacing the inputs commutes with the operations -/

theorem State.advance_latch (s : State) (k : BitVec 16) (r : Byte) :
    (s.latch k r).advance = s.advance.latch k r := rfl

theorem State.skipIf_latch (s : State) (c : Bool) (k : BitVec 16) (r : Byte) :
    (s.latch k r).skipIf c = (s.skipIf c).latch k r := by cases c <;> rfl

theorem State.writeBytes_latch (s : State) (a : Nat) (l : List Byte) (k : BitVec 16) (r : Byte) :
    (s.latch k r).writeBytes a l = (s.writeBytes a l).latch k r := by
  induction l generalizing s a with
  | nil => rfl
  | cons b rest ih => exact ih (s.writeByte a b) (a + 1)

theorem State.loadRegs_latch (s : State) (n : Nat) (k : BitVec 16) (r : Byte) :
    (s.latch k r).loadRegs n = (s.loadRegs n).latch k r := by
  induction n with
  | zero => rfl
  | succ n ih => rw [State.loadRegs, ih]; rfl

theorem State.withRange_latch {s ok t : State} {n : Nat} (h : s.withRange n ok = .next t) (k : BitVec 16) (r : Byte) :
    (s.latch k r).withRange n (ok.latch k r) = .next (t.latch k r) := by
  obtain ⟨hr, rfl⟩ | ⟨hr, rfl⟩ := State.withRange_next h
  · exact State.withRange_ok hr
  · exact State.withRange_bad hr

/-- A handler that reads neither input it is given anew does the same on the new ones. -/
theorem exec_latch {i : Instr} {s t : State} {k : BitVec 16} {r : Byte} (h : exec i s = .next t)
    (hr : (∀ x nn, i ≠ .random x nn) ∨ r = s.rnd)
    (hk : (∀ x, i ≠ .skipKey x ∧ i ≠ .skipNotkey x ∧ i ≠ .getKey x) ∨ k = s.key) :
    exec i (s.latch k r) = .next (t.latch k r) := by
  cases i with
  | ret =>
    by_cases hlive : 0 < s.depth.val
    · cases (exec_ret_of_live hlive).symm.trans h
      exact exec_ret_of_live (s := s.latch k r) hlive
    · cases (exec_ret_of_empty (Nat.eq_zero_of_not_pos hlive)).symm.trans h
      exact exec_ret_of_empty (s := s.latch k r) (Nat.eq_zero_of_not_pos hlive)
  | call nnn =>
    by_cases hfree : s.depth.val < 16
    · cases (exec_call_of_free nnn hfree).symm.trans h
      exact exec_call_of_free (s := s.latch k r) nnn hfree
    · have hfull : s.depth.val = 16 := by have := s.depth.isLt; omega
      cases (exec_call_of_full nnn hfull).symm.trans h
      exact exec_call_of_full (s := s.latch k r) nnn hfull
  | skipEqImm | skipNeqImm | skipEqReg | skipNeqReg =>
    cases h
    exact congrArg _ (State.skipIf_latch ..)
  | random x nn =>
    obtain hr | rfl := hr
    · exact absurd rfl (hr x nn)
    · cases h; rfl
  | skipKey x =>
    obtain hk | rfl := hk
    · exact absurd rfl (hk x).1
    · by_cases hv : (s.getV x).toNat ≤ 15
      · cases (exec_skipKey_of_le hv).symm.trans h
        exact (exec_skipKey_of_le (s := s.latch s.key r) hv).trans (congrArg _ (State.skipIf_latch ..))
      · cases (exec_skipKey_of_lt (Nat.not_le.1 hv)).symm.trans h
        exact exec_skipKey_of_lt (s := s.latch s.key r) (Nat.not_le.1 hv)
  | skipNotkey x =>
    obtain hk | rfl := hk
    · exact absurd rfl (hk x).2.1
    · by_cases hv : (s.getV x).toNat ≤ 15
      · cases (exec_skipNotkey_of_le hv).symm.trans h
        exact (exec_skipNotkey_of_le (s := s.latch s.key r) hv).trans (congrArg _ (State.skipIf_latch ..))
      · cases (exec_skipNotkey_of_lt (Nat.not_le.1 hv)).symm.trans h
        exact exec_skipNotkey_of_lt (s := s.latch s.key r) (Nat.not_le.1 hv)
  | getKey x =>
    obtain hk | rfl := hk
    · exact absurd rfl (hk x).2.2
    · cases hl : leastKey s.key with
      | some j =>
        cases (exec_getKey_of_some x hl).symm.trans h
        exact exec_getKey_of_some (s := s.latch s.key r) x hl
      | none =>
        cases (exec_getKey_of_none x hl).symm.trans h
        exact exec_getKey_of_none (s := s.latch s.key r) x hl
  | draw x y n => exact State.withRange_latch h k r
  | bcd x | regDump x =>
    have hst := State.withRange_latch h k r
    rw [← State.advance_latch, ← State.writeBytes_latch] at hst
    exact hst
  | regLoad x =>
    have hld := State.withRange_latch h k r
    rw [← State.advance_latch, ← State.loadRegs_latch] at hld
    exact hld
  | _ => cases h; rfl

/-- A Cycle whose handler reads neither input it is given anew ends in the same state but for those inputs. -/
theorem cycle_congr_inputs {s : State} (hh : s.halted = false) (keys keys' : BitVec 16) (r r' : Byte)
    (hr : (∀ x nn, s.nextInstr ≠ some (.random x nn)) ∨ r' = r)
    (hk : (∀ x, s.nextInstr ≠ some (.skipKey x) ∧ s.nextInstr ≠ some (.skipNotkey x) ∧ s.nextInstr ≠ some (.getKey x)) ∨
      keys' = keys) :
    ∃ t, cycle keys r s = .next t ∧ t.key = keys ∧ t.rnd = r ∧ cycle keys' r' s = .next (t.latch keys' r') := by
  obtain ⟨hpc, -, hc⟩ | ⟨hpc, hi, hc⟩ | ⟨hpc, i, hi, hc⟩ := cycle_cases_of_running keys r hh
  · exact ⟨_, hc, rfl, rfl, cycle_of_beyond keys' r' hh hpc⟩
  · obtain ⟨h, -⟩ | ⟨-, -, hc'⟩ | ⟨-, j, hj, -⟩ := cycle_cases_of_running keys' r' hh
    · omega
    · exact ⟨_, hc, rfl, rfl, hc'⟩
    · cases hi.symm.trans hj
  · obtain ⟨t, ht⟩ := exec_next i (s.fetched keys r)
    obtain ⟨-, hkey, -, hrnd, -⟩ := memoryAndCycleRecordWriters i _ t ht
    refine ⟨t, hc.trans ht, hkey, hrnd, (cycle_of_nextInstr keys' r' hh hi).trans ?_⟩
    simp only [hi, ne_eq, Option.some.injEq] at hr hk
    exact exec_latch ht hr hk

/-- Settles O15: one input is given anew and the other kept. -/
theorem inputsReachOnlyTheirReaders : Obligations.InputsReachOnlyTheirReaders := by
  refine ⟨fun keys r r' s hh hne => ?_, fun keys keys' r s hh hne => ?_⟩
  · obtain ⟨t, hc, hkey, -, hc'⟩ := cycle_congr_inputs hh keys keys r r' (.inl hne) (.inr rfl)
    refine ⟨t, hc, hc'.trans ?_⟩
    rw [← hkey]
    rfl
  · obtain ⟨t, hc, -, hrnd, hc'⟩ := cycle_congr_inputs hh keys keys' r r (.inr rfl) (.inl hne)
    refine ⟨t, hc, hc'.trans ?_⟩
    rw [← hrnd]
    rfl

end Sys2Proof.Machine
end

section
/-!
The invariant of the machine and the record of a fault: Reset meets both, every Cycle keeps both, and every host
operation keeps the invariant (spec/41_flow.md R119, spec/60_exceptions.md R210, spec/70_reset_and_hazards.md R245).
-/

namespace Sys2Proof.Machine

/-! ### The invariant, handler by handler -/

theorem Completes.mem_wf {i : Instr} {s t : State} (h : Completes s i t) (hm : s.mem.wf) : t.mem.wf := by
  cases h with
  | store l hi => exact State.wf_writeBytes hm _ l
  | registers x => rwa [State.advance_mem, State.loadRegs_mem]
  | skip c hi => rwa [State.skipIf_mem]
  | _ => exact hm

/-- CALL pushes the address of an instruction that was fetched, and RETURN only drops an entry (R110, R112). -/
theorem Completes.stack_le {i : Instr} {s t : State} (h : Completes s i t) (hpc : s.pc.toNat ≤ 0xFFE)
    (hs : ∀ (k : Nat) (h : k < 16), (k : Int) ≤ s.sp → (s.stack[k]'h).toNat ≤ 0xFFE) :
    ∀ (k : Nat) (h : k < 16), (k : Int) ≤ t.sp → (t.stack[k]'h).toNat ≤ 0xFFE := by
  intro k hk hle
  cases h with
  | call nnn hfree =>
    have hle' : k ≤ s.depth.val := by simp only [State.sp, State.called] at hle; omega
    by_cases hkd : s.depth.val = k
    · simpa [State.called, hkd] using hpc
    · simpa [State.called, hkd] using hs k hk (by rw [State.sp]; omega)
  | ret hlive => exact hs k hk (by simp only [State.sp, State.returned] at hle ⊢; omega)
  | _ =>
    have hle' : (k : Int) ≤ s.sp := by simpa [State.sp] using hle
    simpa using hs k hk hle'

/-- A handler run from a fetched `pc` keeps the invariant, whether it faults or completes. -/
theorem Invariant.exec {i : Instr} {s t : State} (h : Invariant s) (hpc : s.pc.toNat ≤ 0xFFE)
    (he : exec i s = .next t) : Invariant t := by
  have hpc' : t.pc.toNat ≤ 0x10FE :=
    (handlersBoundThePc i s t hpc (fun k hk hsp => h.stack k hk hsp.ge) he).1
  obtain ⟨c, w, hf, rfl⟩ | ⟨-, hc⟩ := exec_cases he
  · exact ⟨h.mem, hpc', h.stack, iff_of_false nofun (handlerFault_ne_none hf)⟩
  · obtain ⟨hhalted, hcause, -⟩ := hc.faultFields
    exact ⟨hc.mem_wf h.mem, hpc', hc.stack_le hpc h.stack, by rw [hhalted, hcause]; exact h.halted⟩

/-- A Cycle with any arguments keeps the invariant. -/
theorem Invariant.cycle {keys : BitVec 16} {rnd : Byte} {s t : State} (h : Invariant s)
    (hc : cycle keys rnd s = .next t) : Invariant t := by
  have hfetched : Invariant (s.fetched keys rnd) := ⟨h.mem, h.pc, h.stack, h.halted⟩
  cases hh : s.halted with
  | true =>
    cases (cycle_of_halted keys rnd hh).symm.trans hc
    exact h
  | false =>
    obtain ⟨-, -, hc'⟩ | ⟨-, -, hc'⟩ | ⟨hpc, i, -, hc'⟩ := cycle_cases_of_running keys rnd hh
    · cases hc'.symm.trans hc
      exact ⟨h.mem, h.pc, h.stack, iff_of_false nofun nofun⟩
    · cases hc'.symm.trans hc
      exact hfetched
    · exact hfetched.exec (Nat.le_of_succ_le_succ hpc) (hc'.symm.trans hc)

/-- A step that has a successor is a Cycle of a machine that has not stopped. -/
theorem cycle_of_step {s t : State} (h : step s = .next t) :
    s.halted = false ∧ cycle s.nextInput.keys s.nextInput.rnd s.takeInput = .next t := by
  obtain ⟨-, hs⟩ | ⟨hh, hs⟩ := step_cases s
  · cases hs.symm.trans h
  · exact ⟨hh, hs.symm.trans h⟩

/-- Settles O50: a step is a Cycle, and the inputs it takes are no part of the invariant. -/
theorem stepKeepsInvariant : Obligations.StepKeepsInvariant := by
  intro s t h hstep
  have htake : Invariant s.takeInput := ⟨h.mem, h.pc, h.stack, h.halted⟩
  exact htake.cycle (cycle_of_step hstep).2

/-! ### The record of a fault -/

theorem faultRecordOk_of_none {s : State} (hc : s.faultCause = .none) (hh : s.halted = false)
    (hi : s.faultInfo = 0#16) :
    FaultRecordOk s := by
  rw [FaultRecordOk, hc]
  exact ⟨hh, hi⟩

theorem FaultRecordOk.none_of_running {s : State} (h : FaultRecordOk s) (hh : s.halted = false) :
    s.faultCause = .none ∧ s.faultInfo = 0#16 := by
  unfold FaultRecordOk at h
  split at h
  · next hc => exact ⟨hc, h.2⟩
  all_goals
    have := hh.symm.trans h.1
    cases this

/-- The record fault entry leaves names the condition of the table, when the word recorded is the instruction's. -/
theorem faultRecordOk_fail {i : Instr} {s : State} {c : FaultCause} {w : Word}
    (hf : handlerFault i s = some (c, w.toNat))
    (hword : s.lastOpcode = encode i) : FaultRecordOk (s.fail c w) := by
  obtain ⟨rfl, hw, hsp, rfl⟩ | ⟨rfl, hw, hsp, nnn, rfl⟩ | ⟨rfl, hw, hi⟩ | ⟨rfl, x, hw, hx⟩ := handlerFault_cases hf
  · exact ⟨rfl, BitVec.eq_of_toNat_eq hw, hsp, hword⟩
  · refine ⟨rfl, BitVec.eq_of_toNat_eq hw, hsp, ?_⟩
    have hn : nnn.toNat < 4096 := nnn.isLt
    rw [State.fail_lastOpcode, hword, encode, encodeAddr_toNat, BitVec.toNat_ofNat]
    omega
  · exact ⟨rfl, hw, hi⟩
  · exact ⟨rfl, x, hw, hx⟩

/-- The word at `pc` is that of the instruction the cycle executes. -/
theorem wordAtPc_eq_encode {s : State} {i : Instr} (h : s.nextInstr = some i) : s.wordAtPc = encode i := by
  obtain ⟨-, hd⟩ := (s.nextInstr_eq_some_iff i).1 h
  exact (encode_of_decodeWord ((decodeWord_wordOfBytes _ _).trans hd)).symm

/-- A Cycle of a machine that has not stopped keeps the record of a fault. -/
theorem FaultRecordOk.cycle {keys : BitVec 16} {rnd : Byte} {s t : State} (h : FaultRecordOk s) (hh : s.halted = false)
    (hc : cycle keys rnd s = .next t) : FaultRecordOk t := by
  obtain ⟨hcause, hinfo⟩ := h.none_of_running hh
  obtain ⟨hpc, -, hc'⟩ | ⟨-, -, hc'⟩ | ⟨-, i, hi, hc'⟩ := cycle_cases_of_running keys rnd hh
  · cases hc'.symm.trans hc
    exact ⟨rfl, rfl, Nat.le_of_lt_succ hpc⟩
  · cases hc'.symm.trans hc
    exact faultRecordOk_of_none hcause hh hinfo
  · obtain ⟨c, w, hf, rfl⟩ | ⟨-, hdone⟩ := exec_cases (hc'.symm.trans hc)
    · exact faultRecordOk_fail hf (wordAtPc_eq_encode hi)
    · obtain ⟨h1, h2, h3⟩ := hdone.faultFields
      exact faultRecordOk_of_none (h2.trans hcause) (h1.trans hh) (h3.trans hinfo)

/-- Settles O51: a step is a Cycle of a machine that has not stopped, whose record therefore names no fault. -/
theorem stepKeepsFaultRecord : Obligations.StepKeepsFaultRecord := by
  intro s t h hstep
  obtain ⟨hh, hc⟩ := cycle_of_step hstep
  have htake : FaultRecordOk s.takeInput := h
  exact htake.cycle hh hc

/-! ### Reset and the host operations -/

theorem invariant_reset : Invariant State.reset where
  mem := Memory.wf_reset
  pc := by decide
  stack := fun k _ hle => by simp only [State.sp, State.reset] at hle; omega
  halted := by decide

/-- Settles O52: the values of the table of R26. -/
theorem resetMeetsInvariants : Obligations.ResetMeetsInvariants := ⟨invariant_reset, rfl, rfl⟩

theorem invariant_hostReset (s : State) : Invariant (hostReset s) :=
  ⟨invariant_reset.mem, invariant_reset.pc, invariant_reset.stack, invariant_reset.halted⟩

/-- Load of a program that fits writes its bytes and `pc` (R242). -/
theorem hostLoad_of_fits {bytes : List Byte} (h : romFits bytes = true) (s : State) :
    hostLoad bytes s = .ok ((s.writeBytes Config.loadBase bytes).setPc (BitVec.ofNat 16 Config.loadBase)) := by
  rw [hostLoad, if_pos h]

/-- What a Load leaves on success is written from the old state, and on failure is the old state (R242, R243). -/
theorem hostOp_load_cases (bytes : List Byte) (s : State) :
    (romFits bytes = true ∧ hostOp (.load bytes) s =
      .next ((s.writeBytes Config.loadBase bytes).setPc (BitVec.ofNat 16 Config.loadBase), .loaded)) ∨
    (romFits bytes = false ∧ hostOp (.load bytes) s = .next (s, .loadError)) := by
  cases h : romFits bytes with
  | true => exact .inl ⟨rfl, by simp only [hostOp, hostLoad_of_fits h]⟩
  | false => exact .inr ⟨rfl, hostOp_load_of_error (hostLoad_of_not_fits h s)⟩

theorem Invariant.load {s : State} (h : Invariant s) (bytes : List Byte) :
    Invariant ((s.writeBytes Config.loadBase bytes).setPc (BitVec.ofNat 16 Config.loadBase)) where
  mem := State.wf_writeBytes h.mem _ bytes
  pc := by rw [State.setPc_pc]; decide
  stack := by simpa [State.sp] using h.stack
  halted := by simpa using h.halted

/-- A Cycle returns the recorded word of the state it leaves (R99). -/
theorem hostOp_cycle_of_next {keys : BitVec 16} {rnd : Byte} {s t : State} (h : cycle keys rnd s = .next t) :
    hostOp (.cycle keys rnd) s = .next (t, .word t.lastOpcode) := by
  simp only [hostOp, h]

/-- Every host operation completes, and keeps the invariant. -/
theorem hostOp_next (op : HostOp) (s : State) :
    ∃ t out, hostOp op s = .next (t, out) ∧ (Invariant s → Invariant t) := by
  cases op with
  | reset => exact ⟨_, _, rfl, fun _ => invariant_hostReset s⟩
  | load bytes =>
    obtain ⟨-, h⟩ | ⟨-, h⟩ := hostOp_load_cases bytes s
    · exact ⟨_, _, h, fun hs => hs.load bytes⟩
    · exact ⟨_, _, h, id⟩
  | cycle keys rnd =>
    obtain ⟨t, ht⟩ := everyHandlerAnswers.2 keys rnd s
    exact ⟨t, _, hostOp_cycle_of_next ht, fun hs => hs.cycle ht⟩
  | displayAck => exact ⟨_, _, rfl, fun hs => ⟨hs.mem, hs.pc, hs.stack, hs.halted⟩⟩
  | observe => exact ⟨_, _, rfl, id⟩

theorem Invariant.hostOp {op : HostOp} {s t : State} {out : HostOutput} (h : Invariant s)
    (hop : hostOp op s = .next (t, out)) : Invariant t := by
  obtain ⟨t', out', hop', hkeep⟩ := hostOp_next op s
  cases hop'.symm.trans hop
  exact hkeep h

/-- Every sequence of host operations completes. -/
theorem runHostOps_next (ops : List HostOp) (s : State) : ∃ t outs, runHostOps ops s = .next (t, outs) := by
  induction ops generalizing s with
  | nil => exact ⟨s, [], rfl⟩
  | cons op rest ih =>
    obtain ⟨u, out, hop, -⟩ := hostOp_next op s
    obtain ⟨t, outs, hrun⟩ := ih u
    exact ⟨t, out :: outs, runHostOps_cons_next hop hrun⟩

/-- Settles O53: each operation keeps the invariant, and a legal sequence starts with the Reset that establishes it. -/
theorem hostOperationsKeepInvariant : Obligations.HostOperationsKeepInvariant := by
  refine ⟨fun op s t out => Invariant.hostOp, fun ops s hlegal => ?_⟩
  obtain ⟨rest, rfl⟩ := (legalHostOps_iff ops).1 hlegal
  obtain ⟨t, outs, hrun⟩ := runHostOps_next (.reset :: rest) s
  obtain ⟨u, out, outs', hreset, hrest, -⟩ := runHostOps_cons_cases hrun
  cases hreset
  exact ⟨t, outs, hrun, runHostOps_length hrun,
    runHostOps_keeps (fun _ _ _ _ => Invariant.hostOp) (invariant_hostReset s) hrest⟩

end Sys2Proof.Machine
end

section
/-!
Runs of Cycles in which nothing happens (spec/40_cycle.md R98, spec/45_keys_timers.md R192), the wait of GET_KEY and its
end, and SET_DELAY followed by GET_DELAY (spec/70_reset_and_hazards.md R252).
-/

namespace Sys2Proof.Machine

/-! ### Runs -/

theorem runCycles_cons {c : CycleInput} {s t : State} (h : cycle c.keys c.rnd s = .next t) (rest : List CycleInput) :
    runCycles (c :: rest) s = runCycles rest t := by
  simp only [runCycles, h]

theorem runCycles_append {ins : List CycleInput} {s t : State} (h : runCycles ins s = .next t)
    (rest : List CycleInput) : runCycles (ins ++ rest) s = runCycles rest t := by
  induction ins generalizing s with
  | nil => cases h; rfl
  | cons c ins ih =>
    obtain ⟨u, hu⟩ := everyHandlerAnswers.2 c.keys c.rnd s
    rw [runCycles_cons hu] at h
    rw [List.cons_append, runCycles_cons hu, ih h]

/-- `t` is what `n` idle cycles leave of `s`: timers run down by `n`, and only they, the inputs and the recorded word
differ (R98, R192). -/
def Idled (n : Nat) (s t : State) : Prop :=
  t.dt.toNat = s.dt.toNat - n ∧ t.st.toNat = s.st.toNat - n ∧
    t = { s with key := t.key, rnd := t.rnd, dt := t.dt, st := t.st, lastOpcode := t.lastOpcode }

theorem idled_zero (s : State) : Idled 0 s s := ⟨rfl, rfl, rfl⟩

theorem Idled.of_fetched {n : Nat} {s t : State} {keys : BitVec 16} {rnd : Byte}
    (h : Idled n (s.fetched keys rnd) t) : Idled (n + 1) s t := by
  obtain ⟨hdt, hst, hframe⟩ := h
  refine ⟨?_, ?_, hframe⟩
  · have htick : (s.fetched keys rnd).dt.toNat = s.dt.toNat - 1 := tickDown_toNat s.dt
    omega
  · have htick : (s.fetched keys rnd).st.toNat = s.st.toNat - 1 := tickDown_toNat s.st
    omega

/-- The induction over idle cycles: a condition that the start of a cycle keeps, and under which the cycle then does
nothing more, holds along the whole run. -/
theorem runCycles_idle {P : State → Prop} (hkeep : ∀ s keys rnd, P s → P (s.fetched keys rnd)) {ins : List CycleInput}
    (hidle : ∀ c ∈ ins, ∀ s, P s → cycle c.keys c.rnd s = .next (s.fetched c.keys c.rnd)) {s : State} (hs : P s) :
    ∃ t, runCycles ins s = .next t ∧ P t ∧ Idled ins.length s t := by
  induction ins generalizing s with
  | nil => exact ⟨s, rfl, hs, idled_zero s⟩
  | cons c ins ih =>
    obtain ⟨t, hrun, ht, hidled⟩ :=
      ih (fun d hd => hidle d (List.mem_cons_of_mem c hd)) (hkeep s c.keys c.rnd hs)
    exact ⟨t, (runCycles_cons (hidle c List.mem_cons_self s hs) ins).trans hrun, ht, hidled.of_fetched⟩

/-! ### An unmatched word -/

/-- A machine about to fetch an unmatched word. -/
def State.AtUnmatched (s : State) : Prop :=
  s.halted = false ∧ s.pc.toNat + 1 ≤ 0xFFF ∧
    ∃ u, decode (s.readByte s.pc.toNat) (s.readByte (s.pc.toNat + 1)) = .error u

/-- Settles O14: the fallback leaves the machine about to fetch the same word. -/
theorem unmatchedWordRepeatsForever : Obligations.UnmatchedWordRepeatsForever := by
  intro ins s u hh hpc hd
  obtain ⟨t, hrun, -, hidled⟩ := runCycles_idle (P := State.AtUnmatched) (ins := ins) (fun _ _ _ h => h)
    (fun c _ s ⟨hh, hpc, _, hd⟩ => cycle_of_unmatched c.keys c.rnd hh hpc hd) ⟨hh, hpc, u, hd⟩
  exact ⟨t, hrun, hidled⟩

/-! ### GET_KEY -/

theorem keyByte_toNat {k : Nat} (h : k < 16) : (BitVec.ofNat 8 k).toNat = k := by
  rw [BitVec.toNat_ofNat]
  omega

/-- Settles O44: the scan finds the least key that is down. -/
theorem getKeyTakesTheLeastKey : Obligations.GetKeyTakesTheLeastKey := by
  refine ⟨fun x s k hk hdown hleast => ?_, fun x s hnone => ?_⟩
  · refine ⟨_, exec_getKey_of_some x (leastKey_some.2 ⟨hk, hdown, hleast⟩), fun y => ?_, s.setV_advance_frame x _,
      sameMemory_setV_advance s x _⟩
    rw [State.getV_setV_advance, apply_ite BitVec.toNat, keyByte_toNat hk]
  · exact exec_getKey_of_none x (leastKey_none.2 (BitVec.eq_of_getLsbD_eq fun k hk => by
      rw [hnone k hk, BitVec.getLsbD_zero]))

/-- A machine that waits in GET_KEY. -/
def State.AtGetKey (s : State) (x : RegIdx) : Prop := s.halted = false ∧ s.nextInstr = some (.getKey x)

theorem State.AtGetKey.fetched {s : State} {x : RegIdx} (h : s.AtGetKey x) (keys : BitVec 16) (rnd : Byte) :
    (s.fetched keys rnd).AtGetKey x := h

theorem State.AtGetKey.cycle_no_key {s : State} {x : RegIdx} (h : s.AtGetKey x) (rnd : Byte) :
    cycle 0#16 rnd s = .next (s.fetched 0#16 rnd) :=
  (cycle_of_nextInstr 0#16 rnd h.1 h.2).trans (exec_getKey_of_none x (leastKey_none.2 rfl))

theorem State.AtGetKey.cycle_key {s : State} {x : RegIdx} (h : s.AtGetKey x) {keys : BitVec 16} (rnd : Byte)
    (hkeys : keys ≠ 0#16) :
    ∃ u, cycle keys rnd s = .next u ∧ u.pc = s.pc + 2#16 ∧ keys.getLsbD (u.getV x).toNat = true ∧
      (∀ j < (u.getV x).toNat, keys.getLsbD j = false) ∧ ∀ y, y ≠ x → u.getV y = s.getV y := by
  obtain ⟨k, hk⟩ : ∃ k, leastKey keys = some k :=
    Option.ne_none_iff_exists'.1 fun hnone => hkeys (leastKey_none.1 hnone)
  obtain ⟨hk16, hdown, hleast⟩ := leastKey_some.1 hk
  have hx : (((s.fetched keys rnd).setV x (BitVec.ofNat 8 k)).advance.getV x).toNat = k := by
    rw [State.getV_setV_advance, if_pos rfl, keyByte_toNat hk16]
  refine ⟨_, (cycle_of_nextInstr keys rnd h.1 h.2).trans (exec_getKey_of_some x hk), rfl, ?_, ?_, fun y hy => ?_⟩
  · rw [hx]
    exact hdown
  · rw [hx]
    exact hleast
  · rw [State.getV_setV_advance, if_neg hy]
    rfl

/-- Settles O45: without a key the cycles are idle, and the first key ends the wait. -/
theorem getKeyWaitsForAKey : Obligations.GetKeyWaitsForAKey := by
  intro ins last x s hh hi hnone hlast
  obtain ⟨t, hrun, hat, hdt, hst, hframe⟩ := runCycles_idle (P := fun s => s.AtGetKey x) (ins := ins)
    (fun _ keys rnd h => h.fetched keys rnd) (fun c hc s h => by rw [hnone c hc]; exact h.cycle_no_key c.rnd) ⟨hh, hi⟩
  obtain ⟨u, hcycle, hpc, hdown, hleast, hkept⟩ := hat.cycle_key last.rnd hlast
  have hrun' : runCycles (ins ++ [last]) s = .next u := by
    rw [runCycles_append hrun, runCycles_cons hcycle, runCycles]
  have htpc : t.pc = s.pc := by rw [hframe]
  have htv : t.v = s.v := by rw [hframe]
  exact ⟨t, u, hrun, hrun', hdt, hst, hframe, htpc ▸ hpc, hdown, hleast,
    fun y hy => (hkept y hy).trans (State.getV_congr htv y)⟩

/-! ### SET_DELAY followed by GET_DELAY -/

/-- A Cycle that executes SET_DELAY (R194). -/
theorem cycle_setDelay (c : CycleInput) {x : RegIdx} {s : State} (hh : s.halted = false)
    (hi : s.nextInstr = some (.setDelay x)) :
    ∃ t, cycle c.keys c.rnd s = .next t ∧ t.dt = s.getV x ∧ t.pc = s.pc + 2#16 ∧ t.v = s.v ∧ t.mem = s.mem ∧
      t.halted = false :=
  ⟨_, cycle_of_nextInstr c.keys c.rnd hh hi, rfl, rfl, rfl, rfl, hh⟩

/-- A Cycle that executes GET_DELAY copies the timer it has ticked (R193). -/
theorem cycle_getDelay (c : CycleInput) {y : RegIdx} {s : State} (hh : s.halted = false)
    (hi : s.nextInstr = some (.getDelay y)) :
    ∃ u, cycle c.keys c.rnd s = .next u ∧ (∀ z, u.getV z = if z = y then tickDown s.dt else s.getV z) ∧
      u.dt = tickDown s.dt ∧ u.pc = s.pc + 2#16 :=
  ⟨_, cycle_of_nextInstr c.keys c.rnd hh hi, State.getV_setV_advance _ y _, rfl, rfl⟩

/-- Settles O47: the second cycle ticks the value that SET_DELAY wrote, before GET_DELAY copies it. -/
theorem setDelayThenGetDelay : Obligations.SetDelayThenGetDelay := by
  intro c d x y s hh hset hget
  obtain ⟨t, h1, hdt, hpc, hv, hmem, hht⟩ := cycle_setDelay c hh hset
  have hget' : t.nextInstr = some (.getDelay y) :=
    (State.nextInstr_congr (s := { s with pc := s.pc + 2#16 }) hmem hpc).trans hget
  obtain ⟨u, h2, huv, hudt, hupc⟩ := cycle_getDelay d hht hget'
  have htick : (tickDown t.dt).toNat = (s.getV x).toNat - 1 := by rw [tickDown_toNat, hdt]
  refine ⟨u, by rw [runCycles_cons h1, runCycles_cons h2, runCycles], ?_, fun z hz => ?_, ?_, ?_⟩
  · rw [huv, if_pos rfl, htick]
  · rw [huv, if_neg hz, State.getV_congr hv]
  · rw [hudt, htick]
  · rw [hupc, hpc, BitVec.add_assoc]
    rfl

end Sys2Proof.Machine
end

section
/-!
Control transfer (spec/41_flow.md R110 to R118), arithmetic and logic (spec/42_alu.md R132 to R141), and the key and
timer instructions (spec/45_keys_timers.md R190 to R195), one at a time.
-/

namespace Sys2Proof.Machine

/-! ### CALL and RETURN -/

theorem called_stack (s : State) (nnn : Addr12) (h : s.depth.val < 16) (k : Nat) (hk : k < 16) :
    (s.called nnn h).stack[k]'hk = if (k : Int) = s.sp + 1 then s.pc else s.stack[k]'hk := by
  have hsp : s.sp + 1 = s.depth.val := by rw [State.sp]; omega
  rw [hsp]
  simp [State.called, Vector.getElem_set, eq_comm]

theorem called_sp (s : State) (nnn : Addr12) (h : s.depth.val < 16) : (s.called nnn h).sp = s.sp + 1 := by
  simp only [State.sp, State.called]
  omega

theorem returned_sp (s : State) (h : 0 < s.depth.val) : (s.returned h).sp = s.sp - 1 := by
  simp only [State.sp, State.returned]
  omega

/-- RETURN resumes at the entry `sp` names, plus 2 (R110). -/
theorem returned_pc {s : State} (h : 0 < s.depth.val) {k : Nat} (hk : k < 16) (hsp : s.sp = k) :
    (s.returned h).pc = s.stack[k]'hk + 2#16 := by
  have hd : s.depth.val - 1 = k := by rw [State.sp_eq_natCast_iff] at hsp; omega
  simp only [State.returned, hd]

/-- Settles O17: the two outcomes of a pop. -/
theorem returnResumesAfterCall : Obligations.ReturnResumesAfterCall := by
  refine ⟨fun s k hk hsp => ?_, fun s hsp => exec_ret_of_empty (s.sp_eq_neg_one_iff.1 hsp)⟩
  have hlive : 0 < s.depth.val := by rw [State.sp_eq_natCast_iff] at hsp; omega
  exact ⟨_, exec_ret_of_live hlive, returned_pc hlive hk hsp, returned_sp s hlive, rfl, fun _ => rfl⟩

/-- Settles O20: the two outcomes of a push. -/
theorem callPushesItsOwnAddress : Obligations.CallPushesItsOwnAddress := by
  refine ⟨fun nnn s hsp => ?_, fun nnn s hsp => exec_call_of_full nnn (s.sp_eq_fifteen_iff.1 hsp)⟩
  have hfree : s.depth.val < 16 := s.sp_lt_fifteen_iff.1 hsp
  exact ⟨_, exec_call_of_free nnn hfree, called_sp s nnn hfree, zextAddr_toNat nnn, called_stack s nnn hfree, rfl,
    fun _ => rfl⟩

/-- Settles O22: the entry RETURN pops is the one CALL pushed. -/
theorem callThenReturnResumes : Obligations.CallThenReturnResumes := by
  intro nnn s hsp
  have hfree : s.depth.val < 16 := s.sp_lt_fifteen_iff.1 hsp
  refine ⟨_, exec_call_of_free nnn hfree, fun u hstack hdepth => ?_⟩
  have hlive : 0 < u.depth.val := by rw [hdepth]; exact Nat.succ_pos _
  have husp : u.sp = s.sp + 1 := by rw [← called_sp s nnn hfree, State.sp, State.sp, hdepth]
  have htop : u.sp = (s.depth.val : Nat) := by rw [husp, State.sp]; omega
  refine ⟨_, exec_ret_of_live hlive, ?_, ?_, rfl⟩
  · rw [returned_pc hlive hfree htop]
    simp only [hstack]
    rw [called_stack, if_pos (by rw [← htop, husp])]
  · rw [returned_sp, husp]
    omega

/-! ### Skips -/

theorem State.skipIf_frame (s : State) (c : Bool) :
    s.skipIf c = { s with pc := s.pc + (if c then 4#16 else 2#16) } := by
  cases c <;> rfl

/-- A skip on a condition, in either polarity. -/
theorem State.skipIf_of_iff (s : State) {c : Bool} {p : Prop} [Decidable p] (h : c = true ↔ p) :
    s.skipIf c = { s with pc := s.pc + (if p then 4#16 else 2#16) } := by
  rw [State.skipIf_frame]
  simp only [h]

theorem State.skipIf_of_iff_not (s : State) {c : Bool} {p : Prop} [Decidable p] (h : c = true ↔ ¬ p) :
    s.skipIf c = { s with pc := s.pc + (if p then 2#16 else 4#16) } := by
  rw [State.skipIf_of_iff s h, ite_not]

theorem beq_iff_toNat_eq (a b : Byte) : (a == b) = true ↔ a.toNat = b.toNat := by
  rw [beq_iff_eq, BitVec.toNat_inj]

theorem bne_iff_toNat_ne (a b : Byte) : (a != b) = true ↔ ¬ a.toNat = b.toNat := by
  rw [bne_iff_ne, Ne, BitVec.toNat_inj]

/-- Settles O21: bytes are equal exactly when their unsigned values are. -/
theorem skipsCompareUnsigned : Obligations.SkipsCompareUnsigned := fun _ _ _ s =>
  ⟨congrArg _ (s.skipIf_of_iff (beq_iff_toNat_eq _ _)), congrArg _ (s.skipIf_of_iff_not (bne_iff_toNat_ne _ _)),
    congrArg _ (s.skipIf_of_iff (beq_iff_toNat_eq _ _)), congrArg _ (s.skipIf_of_iff_not (bne_iff_toNat_ne _ _))⟩

theorem zextByte_eq_ofNat (b : Byte) : zextByte b = BitVec.ofNat 16 b.toNat := by
  rw [← zextByte_toNat, BitVec.ofNat_toNat, BitVec.setWidth_eq]

/-- Settles O43: the two outcomes of naming a key. -/
theorem keySkipsTestTheNamedKey : Obligations.KeySkipsTestTheNamedKey := by
  intro x s
  refine ⟨fun hle => ⟨?_, ?_⟩, fun hlt => ?_⟩
  · rw [exec_skipKey_of_le hle, s.skipIf_of_iff Iff.rfl]
  · rw [exec_skipNotkey_of_le hle, s.skipIf_of_iff_not (p := s.key.getLsbD (s.getV x).toNat = true) (by simp)]
  · rw [← zextByte_eq_ofNat]
    exact ⟨exec_skipKey_of_lt hlt, exec_skipNotkey_of_lt hlt⟩

/-! ### One register written, no flag -/

theorem State.getV_setV_advance_self (s : State) (x : RegIdx) (b : Byte) : (s.setV x b).advance.getV x = b := by
  rw [State.getV_setV_advance, if_pos rfl]

theorem State.getV_setV_advance_ne (s : State) (x : RegIdx) (b : Byte) (z : RegIdx) (h : z ≠ x) :
    (s.setV x b).advance.getV z = s.getV z := by
  rw [State.getV_setV_advance, if_neg h]

/-- Settles O26: each writes `Vx` alone, with the value of the operation. -/
theorem copyAndLogicLeaveFlagAlone : Obligations.CopyAndLogicLeaveFlagAlone := by
  intro x y s
  refine ⟨⟨_, rfl, s.getV_setV_advance x _, s.setV_advance_frame x _, sameMemory_setV_advance s x _⟩,
    ⟨_, rfl, fun b => ?_, s.getV_setV_advance_ne x _, s.setV_advance_frame x _, sameMemory_setV_advance s x _⟩,
    ⟨_, rfl, fun b => ?_, s.getV_setV_advance_ne x _, s.setV_advance_frame x _, sameMemory_setV_advance s x _⟩,
    ⟨_, rfl, fun b => ?_, s.getV_setV_advance_ne x _, s.setV_advance_frame x _, sameMemory_setV_advance s x _⟩⟩
  · rw [State.getV_setV_advance_self, BitVec.getLsbD_or]
  · rw [State.getV_setV_advance_self, BitVec.getLsbD_and]
  · rw [State.getV_setV_advance_self, BitVec.getLsbD_xor]

/-- Settles O32: `Vx` is written with the random byte and the mask. -/
theorem randomMasksTheDraw : Obligations.RandomMasksTheDraw := fun x nn s =>
  ⟨_, rfl, fun b => by rw [State.getV_setV_advance_self, BitVec.getLsbD_and], s.getV_setV_advance_ne x _,
    s.setV_advance_frame x _, sameMemory_setV_advance s x _⟩

/-- Settles O46: GET_DELAY writes `Vx` alone, and the other two their timer alone. -/
theorem timerInstructionsCopy : Obligations.TimerInstructionsCopy := fun x s =>
  ⟨⟨_, rfl, s.getV_setV_advance x _, s.setV_advance_frame x _, sameMemory_setV_advance s x _⟩,
    ⟨_, rfl, rfl, rfl, fun _ => rfl⟩, ⟨_, rfl, rfl, rfl, fun _ => rfl⟩⟩

/-- Settles O36: 16 bits hold five times any byte. -/
theorem fontAddrMultipliesByFive : Obligations.FontAddrMultipliesByFive := by
  intro x s
  refine ⟨_, rfl, ?_, s.setI_advance_frame _, sameMemory_setI_advance s _⟩
  have hx : (s.getV x).toNat < 256 := (s.getV x).isLt
  rw [State.advance_i, State.setI_i, BitVec.toNat_ofNat]
  omega

/-! ### One register and the flag written -/

/-- The registers after a flag instruction, as numbers: VF holds the flag whatever X is (R13). -/
theorem State.setFlagged_advance_toNat (s : State) (x : RegIdx) (r : Byte) (f : Bool) (z : RegIdx) :
    ((s.setFlagged x r f).advance.getV z).toNat =
      if z = VF then (flagByte f).toNat else if z = x then r.toNat else (s.getV z).toNat := by
  rw [State.getV_advance, State.getV_setFlagged, apply_ite BitVec.toNat, apply_ite BitVec.toNat]

theorem State.setFlagged_advance_frame (s : State) (x : RegIdx) (r : Byte) (f : Bool) :
    (s.setFlagged x r f).advance = { s with v := (s.setFlagged x r f).advance.v, pc := s.pc + 2#16 } := rfl

theorem sameMemory_setFlagged_advance (s : State) (x : RegIdx) (r : Byte) (f : Bool) :
    SameMemory s (s.setFlagged x r f).advance := fun _ => rfl

theorem flagByte_decide_toNat (p : Prop) [Decidable p] : (flagByte (decide p)).toNat = if p then 1 else 0 := by
  rw [flagByte_toNat]
  simp only [decide_eq_true_eq]

theorem subResult_toNat (a b : Byte) : ((subResult a b).toNat : Int) = |(a.toNat : Int) - (b.toNat : Int)| := by
  have ha : a.toNat < 256 := a.isLt
  have hb : b.toNat < 256 := b.isLt
  rw [subResult, Config.subMode, BitVec.toNat_ofNat]
  split
  · next hle =>
    rw [abs_of_nonneg (by omega)]
    omega
  · next hlt =>
    rw [abs_of_neg (by omega)]
    omega

theorem subnResult_toNat (a b : Byte) : ((subnResult a b).toNat : Int) = ((b.toNat : Int) - (a.toNat : Int)) % 256 := by
  have ha : a.toNat < 256 := a.isLt
  have hb : b.toNat < 256 := b.isLt
  simp only [subnResult, BitVec.toNat_ofNat]
  omega

theorem shrResult_toNat (a : Byte) : (shrResult a).toNat = a.toNat / 2 := by
  have ha : a.toNat < 256 := a.isLt
  rw [shrResult, BitVec.toNat_ofNat]
  omega

theorem shlResult_toNat (a : Byte) : (shlResult a).toNat = 2 * a.toNat % 256 := by
  rw [shlResult, BitVec.toNat_ofNat]
  omega

theorem shrFlag_toNat (a : Byte) : (flagByte (shrFlag a)).toNat = a.toNat % 2 := by
  rw [shrFlag, BitVec.getLsbD, Nat.testBit_zero, flagByte_decide_toNat]
  split <;> omega

theorem shlFlag_toNat (a : Byte) : (flagByte (shlFlag a)).toNat = a.toNat / 128 := by
  have ha : a.toNat < 256 := a.isLt
  rw [shlFlag, BitVec.getLsbD, Nat.testBit_eq_decide_div_mod_eq, flagByte_decide_toNat]
  split <;> omega

/-- Settles O27: the writes are the result and then the flag. -/
theorem addRegCarries : Obligations.AddRegCarries := by
  intro x y s
  refine ⟨_, rfl, fun z => ?_, s.setFlagged_advance_frame x _ _, sameMemory_setFlagged_advance s x _ _⟩
  rw [State.setFlagged_advance_toNat, addCarry, flagByte_decide_toNat, addMod_toNat]

/-- Settles O28: the writes are the absolute difference and then the strict comparison. -/
theorem subRegAbsoluteDifference : Obligations.SubRegAbsoluteDifference := by
  intro x y s
  refine ⟨_, rfl, fun z => ?_, s.setFlagged_advance_frame x _ _, sameMemory_setFlagged_advance s x _ _⟩
  rw [State.setFlagged_advance_toNat, subFlag, flagByte_decide_toNat]
  push_cast
  rw [subResult_toNat]

/-- Settles O29: the flag is bit 0 as it was before the shift. -/
theorem shrShiftsOut : Obligations.ShrShiftsOut := by
  intro x y s
  refine ⟨_, rfl, fun z => ?_, s.setFlagged_advance_frame x _ _, sameMemory_setFlagged_advance s x _ _⟩
  rw [State.setFlagged_advance_toNat, shrFlag_toNat, shrResult_toNat]

/-- Settles O30: the writes are the wrapped difference and then the strict comparison. -/
theorem subnWraps : Obligations.SubnWraps := by
  intro x y s
  refine ⟨_, rfl, fun z => ?_, s.setFlagged_advance_frame x _ _, sameMemory_setFlagged_advance s x _ _⟩
  rw [State.setFlagged_advance_toNat, subFlag, flagByte_decide_toNat]
  push_cast
  rw [subnResult_toNat]

/-- Settles O31: the flag is bit 7 as it was before the shift. -/
theorem shlShiftsOut : Obligations.ShlShiftsOut := by
  intro x y s
  refine ⟨_, rfl, fun z => ?_, s.setFlagged_advance_frame x _ _, sameMemory_setFlagged_advance s x _ _⟩
  rw [State.setFlagged_advance_toNat, shlFlag_toNat, shlResult_toNat]

end Sys2Proof.Machine
end

section
/-!
The instructions that access memory from `I`, their effect when the range exists and MEM_BOUNDS when it does not
(spec/43_index_memory.md R163 to R166), and the display instructions (spec/44_display.md R180 to R184).
-/

namespace Sys2Proof.Machine

/-! ### MEM_BOUNDS -/

/-- An access whose range does not exist sets the fault fields and does nothing else (R48, R214). -/
theorem memBounds_of_range {i : Instr} {s ok : State} {n : Nat} (he : exec i s = s.withRange n ok) (hn : n ≠ 0)
    (hrange : 4096 < s.i.toNat + n) :
    ∃ t, exec i s = .next t ∧ t.faultInfo.toNat = max s.i.toNat 0x1000 ∧
      t = { s with halted := true, faultCause := .memBounds, faultInfo := t.faultInfo } ∧ SameMemory s t :=
  ⟨_, he.trans (State.withRange_bad ((s.rangeOk_eq_false_iff n).2 ⟨hn, hrange⟩)), s.boundsInfo_toNat, rfl, fun _ => rfl⟩

/-! ### Stores and loads -/

theorem State.writeBytes_frame (s : State) (a : Nat) (l : List Byte) :
    s.writeBytes a l = { s with mem := (s.writeBytes a l).mem } := by
  induction l generalizing s a with
  | nil => rfl
  | cons b rest ih => exact ih (s.writeByte a b) (a + 1)

theorem State.writeBytes_advance_frame (s : State) (a : Nat) (l : List Byte) :
    (s.writeBytes a l).advance = { s with mem := (s.writeBytes a l).advance.mem, pc := s.pc + 2#16 } := by
  rw [State.writeBytes_frame]
  rfl

theorem State.loadRegs_frame (s : State) (n : Nat) : s.loadRegs n = { s with v := (s.loadRegs n).v } := by
  induction n with
  | zero => rfl
  | succ n ih => rw [State.loadRegs, ih]; rfl

theorem State.loadRegs_advance_frame (s : State) (n : Nat) :
    (s.loadRegs n).advance = { s with v := (s.loadRegs n).advance.v, pc := s.pc + 2#16 } := by
  rw [State.loadRegs_frame]
  rfl

theorem sameMemory_loadRegs_advance (s : State) (n : Nat) : SameMemory s (s.loadRegs n).advance :=
  State.readByte_congr (by rw [State.advance_mem, State.loadRegs_mem])

/-- A byte inside a store of consecutive bytes. -/
theorem State.readByte_store_at (s : State) (l : List Byte) (hrange : s.i.toNat + l.length ≤ 4096) {k : Nat}
    (hk : k < l.length) : (s.writeBytes (s.ea 0) l).advance.readByte (s.ea k) = l.getD k 0#8 := by
  calc (s.writeBytes (s.ea 0) l).readByte (s.ea k)
    _ = l.getD (s.ea k - s.ea 0) 0#8 :=
      (State.readByte_writeBytes l s (s.ea 0) (s.ea k) hrange).trans (if_pos (by simp only [State.ea]; omega))
    _ = l.getD k 0#8 := by simp only [State.ea, Nat.add_zero, Nat.add_sub_cancel_left]

/-- A byte outside a store of consecutive bytes. -/
theorem State.readByte_store_off (s : State) (l : List Byte) (hrange : s.i.toNat + l.length ≤ 4096) {a : Nat}
    (ha : ∀ k < l.length, a ≠ s.ea k) : (s.writeBytes (s.ea 0) l).advance.readByte a = s.readByte a := by
  have hout : ¬ (s.ea 0 ≤ a ∧ a < s.ea 0 + l.length) := fun ⟨hle, hlt⟩ =>
    ha (a - s.ea 0) (by omega) (by simp only [State.ea] at *; omega)
  exact (State.readByte_writeBytes l s _ _ hrange).trans (if_neg hout)

@[simp] theorem bcdDigits_length (b : Byte) : (bcdDigits b).length = 3 := rfl

/-- The digits are below 256, so narrowing to a byte keeps them (R163). -/
theorem bcdDigits_getD_toNat (b : Byte) :
    ((bcdDigits b).getD 0 0#8).toNat = b.toNat / 100 ∧ ((bcdDigits b).getD 1 0#8).toNat = b.toNat / 10 % 10 ∧
      ((bcdDigits b).getD 2 0#8).toNat = b.toNat % 10 := by
  have hb : b.toNat < 256 := b.isLt
  refine ⟨?_, ?_, ?_⟩
  all_goals
    simp only [bcdDigits, List.getD_cons_zero, List.getD_cons_succ, BitVec.toNat_ofNat]
    omega

/-- Settles O37: the three digits are stored when the range of three exists. -/
theorem bcdStoresThreeDigits : Obligations.BcdStoresThreeDigits := by
  refine ⟨fun x s hrange => ?_, fun x s hrange => memBounds_of_range rfl (by decide : (3 : Nat) ≠ 0) (by omega)⟩
  have hr : s.rangeOk 3 = true := (s.rangeOk_iff 3).2 (.inr (by omega))
  have hlen : s.i.toNat + (bcdDigits (s.getV x)).length ≤ 4096 := by
    rw [bcdDigits_length]
    omega
  refine ⟨_, State.withRange_ok hr, fun a => ?_, s.writeBytes_advance_frame _ _⟩
  obtain ⟨d0, d1, d2⟩ := bcdDigits_getD_toNat (s.getV x)
  split
  · next h0 => rw [h0, State.readByte_store_at s _ hlen (by decide : 0 < 3), d0]
  split
  · next h1 => rw [h1, State.readByte_store_at s _ hlen (by decide : 1 < 3), d1]
  split
  · next h2 => rw [h2, State.readByte_store_at s _ hlen (by decide : 2 < 3), d2]
  · next h0 h1 h2 =>
    rw [State.readByte_store_off s _ hlen]
    intro k hk
    have hk3 : k < 3 := hk
    interval_cases k <;> assumption

/-- Settles O38: the registers up to `VX` are stored when the range of X + 1 exists. -/
theorem regDumpStoresRegisters : Obligations.RegDumpStoresRegisters := by
  refine ⟨fun x s hrange => ?_, fun x s hrange => memBounds_of_range rfl (Nat.succ_ne_zero x.toNat) (by omega)⟩
  have hr : s.rangeOk (x.toNat + 1) = true := (s.rangeOk_iff _).2 (.inr (by omega))
  have hlen : (s.firstRegs (x.toNat + 1)).length = x.toNat + 1 := s.firstRegs_length _
  have hend : s.i.toNat + (s.firstRegs (x.toNat + 1)).length ≤ 4096 := by omega
  refine ⟨_, State.withRange_ok hr, fun k hk => ?_, fun a ha => ?_, s.writeBytes_advance_frame _ _⟩
  · rw [State.readByte_store_at s _ hend (by omega), State.firstRegs_getD s _ _ (by omega), BitVec.ofNat_toNat,
      BitVec.setWidth_eq]
  · exact State.readByte_store_off s _ hend fun k hk => ha k (by omega)

/-- Settles O39: the registers up to `VX` are loaded when the range of X + 1 exists. -/
theorem regLoadLoadsRegisters : Obligations.RegLoadLoadsRegisters := by
  refine ⟨fun x s hrange => ?_, fun x s hrange => memBounds_of_range rfl (Nat.succ_ne_zero x.toNat) (by omega)⟩
  have hr : s.rangeOk (x.toNat + 1) = true := (s.rangeOk_iff _).2 (.inr (by omega))
  refine ⟨_, State.withRange_ok hr, fun k => ?_, s.loadRegs_advance_frame _, sameMemory_loadRegs_advance s _⟩
  rw [State.getV_advance, State.getV_loadRegs s _ x.isLt]
  simp only [Nat.lt_succ_iff]

/-! ### CLEAR -/

/-- Settles O40: the framebuffer is written with every pixel off. -/
theorem clearTurnsEveryPixelOff : Obligations.ClearTurnsEveryPixelOff := fun _ =>
  ⟨_, rfl, Framebuffer.pixel_clear, rfl, fun _ => rfl⟩

/-! ### DRAW -/

/-- The places of the 1 bits of the sprite that DRAW draws (R181). -/
def State.drawnPlaces (s : State) (x y : RegIdx) (n : Nibble) : List (Fin 64 × Fin 32) :=
  s.spritePlaces ((s.getV x).toNat % 64) ((s.getV y).toNat % 32) n.toNat

/-- The state in which DRAW leaves the machine when the sprite's bytes exist (R181). -/
def State.drawn (s : State) (x y : RegIdx) (n : Nibble) : State :=
  (((s.setFb (drawPlaces s.fb (s.drawnPlaces x y n)).1).setV VF
    (flagByte (drawPlaces s.fb (s.drawnPlaces x y n)).2)).setDrawPending true).advance

theorem exec_draw_of_range {x y : RegIdx} {n : Nibble} {s : State} (h : n.toNat = 0 ∨ s.i.toNat + n.toNat - 1 ≤ 0xFFF) :
    exec (.draw x y n) s = .next (s.drawn x y n) :=
  State.withRange_ok ((s.rangeOk_iff _).2 (by omega))

theorem State.nodup_drawnPlaces (s : State) (x y : RegIdx) (n : Nibble) : (s.drawnPlaces x y n).Nodup :=
  s.nodup_spritePlaces _ _ _ (by have := n.isLt; omega)

/-- A pixel after DRAW: complemented under a 1 bit of the sprite. -/
theorem pixel_drawn (s : State) (x y : RegIdx) (n : Nibble) (px : Fin 64) (py : Fin 32) :
    Framebuffer.pixel (s.drawn x y n).fb px py =
      if (px, py) ∈ s.drawnPlaces x y n then !Framebuffer.pixel s.fb px py else Framebuffer.pixel s.fb px py :=
  pixel_drawPlaces (s.nodup_drawnPlaces x y n) s.fb px py

theorem pixel_drawn_ne_iff (s : State) (x y : RegIdx) (n : Nibble) (px : Fin 64) (py : Fin 32) :
    Framebuffer.pixel (s.drawn x y n).fb px py ≠ Framebuffer.pixel s.fb px py ↔ (px, py) ∈ s.drawnPlaces x y n := by
  rw [pixel_drawn]
  by_cases h : (px, py) ∈ s.drawnPlaces x y n <;> simp [h]

theorem drawn_flag (s : State) (x y : RegIdx) (n : Nibble) :
    (s.drawn x y n).getV VF = flagByte (drawPlaces s.fb (s.drawnPlaces x y n)).2 :=
  State.getV_setV_self _ _ _

/-- VF after DRAW: 1 exactly when some pixel under a 1 bit was on. -/
theorem drawn_flag_iff (s : State) (x y : RegIdx) (n : Nibble) :
    ((s.drawn x y n).getV VF).toNat = 1 ↔
      ∃ px py, (px, py) ∈ s.drawnPlaces x y n ∧ Framebuffer.pixel s.fb px py = true := by
  have hcol := collision_drawPlaces (s.nodup_drawnPlaces x y n) s.fb
  rw [drawn_flag, flagByte_toNat]
  simp [hcol]

/-- Settles O41: the sprite visits no pixel twice, so a pixel changes exactly when it lies under a 1 bit. -/
theorem drawXorsTheSprite : Obligations.DrawXorsTheSprite := by
  refine ⟨fun x y n s hrange => ?_, fun x y n s hn hrange => memBounds_of_range rfl hn (by omega)⟩
  refine ⟨_, exec_draw_of_range hrange, fun px py => ?_, ?_, ?_, fun z hz => ?_, rfl, rfl, fun _ => rfl⟩
  · exact (pixel_drawn_ne_iff s x y n px py).trans (s.mem_spritePlaces _ _ _ _)
  · rw [drawn_flag]
    obtain h | h := flagByte_toNat_eq_zero_or_one (drawPlaces s.fb (s.drawnPlaces x y n)).2 <;> omega
  · rw [drawn_flag_iff]
    refine exists_congr fun px => exists_congr fun py => ?_
    rw [pixel_drawn]
    by_cases h : (px, py) ∈ s.drawnPlaces x y n <;> simp [h]
  · exact (State.getV_setV _ VF _ z).trans (if_neg hz)

/-- Settles O42: both sprites have the same places, so the second complements them back. -/
theorem doubleDrawRestores : Obligations.DoubleDrawRestores := by
  intro x y n s t hrange hexec hx hy
  cases (exec_draw_of_range hrange).symm.trans hexec
  have hplaces : (s.drawn x y n).drawnPlaces x y n = s.drawnPlaces x y n := by
    rw [State.drawnPlaces, hx, hy]
    rfl
  refine ⟨_, exec_draw_of_range (s := s.drawn x y n) hrange, Framebuffer.ext_pixel fun px py => ?_, ?_⟩
  · rw [pixel_drawn, pixel_drawn, hplaces]
    by_cases h : (px, py) ∈ s.drawnPlaces x y n <;> simp [h]
  · rw [drawn_flag_iff, hplaces]
    refine exists_congr fun px => exists_congr fun py => ?_
    rw [pixel_drawn]
    by_cases h : (px, py) ∈ s.drawnPlaces x y n <;> simp [h]

end Sys2Proof.Machine
end

section
/-!
The state after Reset (spec/10_state.md R24, R26) and the host operations Load, Observe, DisplayAck and Reset
(spec/70_reset_and_hazards.md R240 to R247).
-/

namespace Sys2Proof.Machine

/-! ### Reset -/

theorem reset_getV (x : RegIdx) : State.reset.getV x = 0#8 := by
  simp only [State.getV, State.reset, Vector.getElem_replicate]

theorem reset_stack (k : Nat) (h : k < 16) : State.reset.stack[k]'h = 0#16 := by
  simp only [State.reset, Vector.getElem_replicate]

/-- Settles O7: the fields of `State.reset`, read through the accessors. -/
theorem resetLeavesTheTable : Obligations.ResetLeavesTheTable :=
  ⟨reset_getV, rfl, rfl, reset_stack, rfl, rfl, rfl, Framebuffer.pixel_clear, rfl, rfl, rfl, rfl, rfl, rfl⟩

/-- After Reset no cell is listed, so a byte reads as Reset leaves it. -/
theorem reset_readByte (a : Nat) : State.reset.readByte a = Memory.initial a := Memory.read_nil a

/-- Settles O8: the font is the table of R24, and above it every byte is `MEM_INIT`. -/
theorem resetHoldsTheFont : Obligations.ResetHoldsTheFont :=
  ⟨by decide, fun a hlow _ => (reset_readByte a).trans (Memory.initial_high hlow)⟩

/-! ### Load -/

/-- Settles O57: a store of consecutive bytes from 0x200 that ends inside memory. -/
theorem loadPlacesTheProgram : Obligations.LoadPlacesTheProgram := by
  intro bytes s hlen
  have hfits : romFits bytes = true := (romFits_iff bytes).2 hlen
  have hread := State.readByte_writeBytes bytes s 0x200 (h := by simp only [Config.memSize]; omega)
  obtain ⟨-, h⟩ | ⟨hno, -⟩ := hostOp_load_cases bytes s
  · refine ⟨_, h, rfl, fun k hk => ?_, fun a ha => ?_, ?_⟩
    · refine (hread (0x200 + k)).trans ?_
      rw [if_pos (by omega), Nat.add_sub_cancel_left, List.getD_eq_getElem _ _ hk]
    · exact (hread a).trans (if_neg (by omega))
    · rw [State.writeBytes_frame]
      rfl
  · rw [hfits] at hno
    cases hno

/-! ### Observe -/

/-- Rows of one length laid end to end: the place of an entry. -/
theorem getElem?_flatMap_toList {α : Type} {n : Nat} (l : List (Vector α n)) {i j : Nat}
    (hi : i < l.length) (hj : j < n) :
    (l.flatMap Vector.toList)[i * n + j]? = some (l[i][j]) := by
  induction l generalizing i with
  | nil => cases hi
  | cons r rest ih =>
    rw [List.flatMap_cons]
    cases i with
    | zero =>
      rw [Nat.zero_mul, Nat.zero_add, List.getElem?_append_left (by simpa using hj)]
      simp [hj]
    | succ i =>
      have hle : r.toList.length ≤ (i + 1) * n + j := by
        rw [Vector.length_toList, Nat.succ_mul]
        omega
      have hsub : (i + 1) * n + j - r.toList.length = i * n + j := by
        rw [Vector.length_toList, Nat.succ_mul]
        omega
      rw [List.getElem?_append_right hle, hsub, ih (Nat.lt_of_succ_lt_succ hi)]
      rfl

/-- The pixel (x, y) stands at index `y * 64 + x` of what Observe reads (D31). -/
theorem observe_pixel (f : Framebuffer) (x : Fin 64) (y : Fin 32) :
    (f.toList.flatMap Vector.toList)[y.val * 64 + x.val]? = some (Framebuffer.pixel f x y) :=
  getElem?_flatMap_toList f.toList (by rw [Vector.length_toList]; exact y.isLt) x.isLt

theorem observe_mem (s : State) (a : Nat) (h : a < 4096) : (hostObserve s).mem[a]? = some (s.readByte a) := by
  rw [hostObserve, List.getElem?_map, List.getElem?_range (show a < Config.memSize from h)]
  rfl

theorem observe_v (s : State) (x : RegIdx) : (hostObserve s).v[x.toNat]? = some (s.getV x) := by
  have hx : x.toNat < 16 := x.isLt
  simp [hostObserve, State.getV, hx]

theorem observe_stack (s : State) (k : Nat) (h : k < 16) : (hostObserve s).stack[k]? = some (s.stack[k]'h) := by
  simp [hostObserve, h]

theorem State.neg_one_le_sp (s : State) : -1 ≤ s.sp := by
  rw [State.sp]; omega

theorem State.sp_le_fifteen (s : State) : s.sp ≤ 15 := by
  rw [State.sp]; omega

/-- Settles O59: each element of the observation is read from the state by its index. -/
theorem observeReadsEveryElement : Obligations.ObserveReadsEveryElement := fun s =>
  ⟨hostObserve s, rfl, observe_mem s, observe_v s, observe_stack s, rfl, s.neg_one_le_sp, s.sp_le_fifteen,
    observe_pixel s.fb, rfl, rfl, rfl, rfl, rfl, rfl, rfl, rfl, rfl, rfl⟩

/-! ### DisplayAck and Reset -/

/-- Observe reads no field of the model's own, so it reads any Reset alike (R240). -/
theorem observe_hostReset (s : State) : hostObserve (hostReset s) = hostObserve State.reset := rfl

/-- Settles O60: DisplayAck writes one field, and Reset every element that Observe reads. -/
theorem displayAckAndResetWriteTheirs : Obligations.DisplayAckAndResetWriteTheirs := fun s =>
  ⟨rfl, hostReset s, rfl, observe_hostReset s, rfl⟩

end Sys2Proof.Machine
end
